-- ==== Sys2Proof/Word.lean ====
section
/-! DEFINITION. The widths the spec names: 64-bit register values (00_scope R8), 32-bit instruction words
(30_encoding R57) and bytes. -/

namespace Sys2Proof

/-- A register value, an address in a register, the program counter (10_state R10, R21). -/
abbrev Word := BitVec 64

/-- One instruction word (30_encoding R57). -/
abbrev InsnWord := BitVec 32

/-- One byte of instruction memory. -/
abbrev Byte := BitVec 8

end Sys2Proof
end

