-- ==== Sys2Proof/Syntax.lean ====
section
/-! DEFINITION. The four accessor instructions (30_encoding R56, R64), one constructor per row of the opcode table,
and the abstract term of a System register move (30_encoding R55, R57). -/

namespace Sys2Proof

/-- The two names under which software reaches the register (30_encoding R56). -/
inductive Mnemonic where
  | cpacrEL1 | cpacrEL12
deriving DecidableEq, Repr

/-- The instructions. `t` is the number of the operand `<Xt>`, 0 to 31 (30_encoding R58); 31 is the zero register
(10_state R23). -/
inductive Instr where
  /-- `MRS <Xt>, CPACR_EL1` (41_register_access R100) -/
  | mrsCpacrEl1 (t : Nat)
  /-- `MSR CPACR_EL1, <Xt>` (41_register_access R101) -/
  | msrCpacrEl1 (t : Nat)
  /-- `MRS <Xt>, CPACR_EL12` (41_register_access R102) -/
  | mrsCpacrEl12 (t : Nat)
  /-- `MSR CPACR_EL12, <Xt>` (41_register_access R103) -/
  | msrCpacrEl12 (t : Nat)
deriving DecidableEq, Repr

/-- The other of the two names. -/
def Mnemonic.other : Mnemonic → Mnemonic
  | .cpacrEL1 => .cpacrEL12
  | .cpacrEL12 => .cpacrEL1

/-- The read by a name. -/
def Mnemonic.mrs : Mnemonic → Nat → Instr
  | .cpacrEL1, t => .mrsCpacrEl1 t
  | .cpacrEL12, t => .mrsCpacrEl12 t

/-- The write by a name. -/
def Mnemonic.msr : Mnemonic → Nat → Instr
  | .cpacrEL1, t => .msrCpacrEl1 t
  | .cpacrEL12, t => .msrCpacrEl12 t

/-- The number of the operand `<Xt>`. -/
def Instr.rt : Instr → Nat
  | .mrsCpacrEl1 t => t
  | .msrCpacrEl1 t => t
  | .mrsCpacrEl12 t => t
  | .msrCpacrEl12 t => t

/-- A move between a general register and a point of the System register encoding space (30_encoding R55, R57):
the direction, the five fields of the tuple, and `Rt`. -/
structure SysMove where
  /-- bit 21, `L`: 1 for `MRS`, 0 for `MSR` -/
  isRead : Bool
  op0 : BitVec 2
  op1 : BitVec 3
  crn : BitVec 4
  crm : BitVec 4
  op2 : BitVec 3
  rt : BitVec 5
deriving DecidableEq, Repr

end Sys2Proof
end

