-- ==== Sys2Proof/WellFormed.lean ====
section
/-! DEFINITION. Well-formed instructions: "`t` ranges over 0 to 31" (30_encoding R58). -/

namespace Sys2Proof

/-- The operand number fits the five bits of `Rt` (30_encoding R58). -/
def Instr.rtFits (i : Instr) : Bool := decide (i.rt < 32)

/-- An instruction that an encoding can express. -/
abbrev Instr.WellFormed (i : Instr) : Prop := i.rtFits = true

end Sys2Proof
end

