-- ==== Sys2Proof/Decode.lean ====
section
/-! DEFINITION. The decoder, total on any bytes and rejecting by name, and the encoder. Two layers: the 32-bit word
layout of 30_encoding R57 (PRESUMED, log 20), and the tuples of 30_encoding R56, which are the source's. -/

namespace Sys2Proof

/-- Why bytes are no instruction of this spec (30_encoding R62: refused, neither UNDEFINED nor a no-op). -/
inductive DecodeError where
  /-- fewer than four bytes -/
  | truncated
  /-- bits [31:22] are not the fixed bits of `MRS` and `MSR` (register) -/
  | notSystemMove (w : InsnWord)
  /-- the tuple names another point of the System register encoding space -/
  | otherSystemRegister (m : SysMove)
deriving DecidableEq, Repr

/-- The fixed bits [31:22] of 30_encoding R57. -/
def sysMoveOpcode : BitVec 10 := 0b1101010100

/-- The word layout of 30_encoding R57, read. -/
def splitWord (w : InsnWord) : Except DecodeError SysMove :=
  if w.extractLsb' 22 10 = sysMoveOpcode then
    .ok { isRead := w.getLsbD 21
          op0 := w.extractLsb' 19 2
          op1 := w.extractLsb' 16 3
          crn := w.extractLsb' 12 4
          crm := w.extractLsb' 8 4
          op2 := w.extractLsb' 5 3
          rt := w.extractLsb' 0 5 }
  else .error (.notSystemMove w)

/-- The word layout of 30_encoding R57, written. -/
def joinWord (m : SysMove) : InsnWord :=
  sysMoveOpcode ++ BitVec.ofBool m.isRead ++ m.op0 ++ m.op1 ++ m.crn ++ m.crm ++ m.op2 ++ m.rt

/-- The form a tuple selects (30_encoding R56, R59): only the direction and `op1` tell the four apart. -/
def selectForm (m : SysMove) : Except DecodeError Instr :=
  if m.op0 = 0b11 ∧ m.crn = 0b0001 ∧ m.crm = 0b0000 ∧ m.op2 = 0b010 then
    if m.op1 = 0b000 then
      .ok (if m.isRead then .mrsCpacrEl1 m.rt.toNat else .msrCpacrEl1 m.rt.toNat)
    else if m.op1 = 0b101 then
      .ok (if m.isRead then .mrsCpacrEl12 m.rt.toNat else .msrCpacrEl12 m.rt.toNat)
    else .error (.otherSystemRegister m)
  else .error (.otherSystemRegister m)

/-- The tuple of each form (30_encoding R56). -/
def Instr.sysMove : Instr → SysMove
  | .mrsCpacrEl1 t =>
      { isRead := true, op0 := 0b11, op1 := 0b000, crn := 0b0001, crm := 0b0000, op2 := 0b010, rt := BitVec.ofNat 5 t }
  | .msrCpacrEl1 t =>
      { isRead := false, op0 := 0b11, op1 := 0b000, crn := 0b0001, crm := 0b0000, op2 := 0b010, rt := BitVec.ofNat 5 t }
  | .mrsCpacrEl12 t =>
      { isRead := true, op0 := 0b11, op1 := 0b101, crn := 0b0001, crm := 0b0000, op2 := 0b010, rt := BitVec.ofNat 5 t }
  | .msrCpacrEl12 t =>
      { isRead := false, op0 := 0b11, op1 := 0b101, crn := 0b0001, crm := 0b0000, op2 := 0b010, rt := BitVec.ofNat 5 t }

/-- The instruction a 32-bit word selects; every word but the four patterns is refused (30_encoding R57, R62). -/
def decodeWord (w : InsnWord) : Except DecodeError Instr :=
  match splitWord w with
  | .ok m => selectForm m
  | .error e => .error e

/-- The four bytes of a word, lowest address first: little-endian (20_memory R42, PRESUMED, log 19). -/
def wordBytes (w : InsnWord) : List Byte :=
  [w.extractLsb' 0 8, w.extractLsb' 8 8, w.extractLsb' 16 8, w.extractLsb' 24 8]

/-- The instruction at the head of some bytes, and the bytes after it. -/
def decode : List Byte → Except DecodeError (Instr × List Byte)
  | b0 :: b1 :: b2 :: b3 :: rest =>
    match decodeWord (b3 ++ b2 ++ b1 ++ b0) with
    | .ok i => .ok (i, rest)
    | .error e => .error e
  | _ => .error .truncated

/-- The word of an instruction (30_encoding R56, R57). -/
def encodeWord (i : Instr) : InsnWord := joinWord i.sysMove

/-- The bytes of an instruction, as `decode` reads them. -/
def encode (i : Instr) : List Byte := wordBytes (encodeWord i)

/-- The word that the low `nbits` bits of `w` make, the bits above them zero. -/
def tableWord (nbits w : Nat) : InsnWord := BitVec.ofNat 32 (w % 2 ^ nbits)

/-- The instruction the decoder reads from a row's bits, numbered as spec/opcode_table.json numbers them. -/
def decodeTableWord (nbits w : Nat) : Option Instr :=
  match decode (wordBytes (tableWord nbits w)) with
  | .ok (i, _) => some i
  | .error _ => none

end Sys2Proof
end

