-- ==== Sys2Proof/Config.lean ====
section
/-! DEFINITION. What an implementation fixes: the record `Impl` of 00_scope R6 with its table of field positions, and the free constants that stand for values the spec leaves arbitrary after reset. -/

namespace Sys2Proof

/-- The four Exception levels, the values of `PSTATE.EL` (10_state R24). -/
inductive EL where
  | el0 | el1 | el2 | el3
deriving DecidableEq, Repr

/-- How RES0 bits store: the parameter `Impl.Res0Mode` of 10_state R13. -/
inductive Res0Mode where
  /-- a write stores 0 in every RES0 bit, a read returns 0 there -/
  | razWi
  /-- RES0 bits store and return what was last written -/
  | stateful
deriving DecidableEq, Repr

/-- The table `FieldPos` of `Impl` (00_scope R6, 10_state R11): the position of each field's least significant bit. -/
structure FieldPos where
  e0poe : Nat
  tta : Nat
  smen : Nat
  fpen : Nat
  zen : Nat
deriving DecidableEq, Repr

/-- The static parameters of 00_scope R6. -/
structure Impl where
  /-- `HaveEL(EL3)` -/
  haveEL3 : Bool
  /-- "EL2 is implemented" -/
  haveEL2 : Bool
  /-- `IsFeatureImplemented(FEAT_FGT)` -/
  featFGT : Bool
  /-- `FEAT_SVE`; ZEN exists (10_state R18, PRESUMED, log 2) -/
  featSVE : Bool
  /-- `FEAT_SME`; SMEN exists (10_state R16, PRESUMED, log 2) -/
  featSME : Bool
  /-- `FEAT_S1POE`; E0POE exists (10_state R14, PRESUMED, log 2) -/
  featS1POE : Bool
  /-- System register access to the trace functionality is implemented; TTA exists (10_state R15) -/
  traceSysreg : Bool
  /-- how RES0 bits store (10_state R13) -/
  res0Mode : Res0Mode
  /-- `FPEN_SVE_SME_EL2_EC`: the EC when FPEN traps an SME or SVE instruction to EL2 (90_conflicts C1) -/
  fpenSveSmeEL2EC : BitVec 6
  /-- where each field stands (10_state R11, decision D1) -/
  fieldPos : FieldPos
deriving DecidableEq, Repr

/-- The draw for `CPACR_EL1` at `State.reset`: "a free draw ..., not as zero and not as enabled" (10_state R35, log 4). -/
opaque Config.resetCpacr : Word

/-- X0 to X30 at `State.reset`: "unspecified, arbitrary after reset" (10_state R36, log 5). -/
opaque Config.resetX : Nat → Word

/-- `CPTR_EL2` at `State.reset`: "unspecified, arbitrary after reset" (10_state R36, log 5). -/
opaque Config.resetCptrEL2 : Word

/-- `NVMem[0x100]` at `State.reset`: "unspecified, arbitrary after reset" (10_state R36, log 5). -/
opaque Config.resetNvMem : Word

end Sys2Proof
end

