-- ==== Sys2Proof/Machine/Flags.lean ====
section
/-! DEFINITION. The fields of `CPACR_EL1` at the positions of a table (10_state R11 to R18, 30_encoding R60), the RES0 rule (10_state R13) and the
two-bit enable code (40_field_trap_controls R83). There are no condition flags (10_state R29). -/

namespace Sys2Proof.Machine

/-- E0POE, 1 bit: 0 traps (10_state R14). -/
def e0poe (pos : FieldPos) (v : Word) : Bool := v.getLsbD pos.e0poe
/-- TTA, 1 bit: 1 traps (10_state R15). -/
def tta (pos : FieldPos) (v : Word) : Bool := v.getLsbD pos.tta
/-- SMEN, 2 bits (10_state R16). -/
def smen (pos : FieldPos) (v : Word) : BitVec 2 := v.extractLsb' pos.smen 2
/-- FPEN, 2 bits (10_state R17). -/
def fpen (pos : FieldPos) (v : Word) : BitVec 2 := v.extractLsb' pos.fpen 2
/-- ZEN, 2 bits (10_state R18). -/
def zen (pos : FieldPos) (v : Word) : BitVec 2 := v.extractLsb' pos.zen 2

/-- The mask of a field of `width` bits at `pos` (10_state R11). -/
def fieldMask (width pos : Nat) : Word := BitVec.ofNat 64 ((2 ^ width - 1) * 2 ^ pos)

/-- The mask of a field that exists only when its feature does (10_state R13). -/
def liveField (present : Bool) (width pos : Nat) : Word := if present then fieldMask width pos else 0

/-- `live_mask`: the OR of the masks of the fields present (10_state R13). FPEN is always present (R17). -/
def liveMask (impl : Impl) : Word :=
  liveField impl.featS1POE 1 impl.fieldPos.e0poe ||| liveField impl.traceSysreg 1 impl.fieldPos.tta |||
  liveField impl.featSME 2 impl.fieldPos.smen ||| fieldMask 2 impl.fieldPos.fpen |||
  liveField impl.featSVE 2 impl.fieldPos.zen

/-- What a write of `v` stores: `(v AND live_mask) OR (keep AND NOT live_mask)` (10_state R13). -/
def storeFilter (impl : Impl) (v : Word) : Word :=
  let keep : Word := match impl.res0Mode with
    | .razWi => 0
    | .stateful => v
  (v &&& liveMask impl) ||| (keep &&& ~~~ liveMask impl)

/-- `En2Traps(f, el)`: the code shared by SMEN, FPEN and ZEN (40_field_trap_controls R83). -/
def en2Traps (f : BitVec 2) (el : EL) : Bool :=
  (el == .el0 && f != 0b11) || (el == .el1 && !f.getLsbD 0)

/-- The highest implemented Exception level, where the PE is after reset (10_state R36, PRESUMED, log 5). -/
def highestEL (impl : Impl) : EL :=
  if impl.haveEL3 then .el3 else if impl.haveEL2 then .el2 else .el1

end Sys2Proof.Machine
end

