-- ==== Sys2Proof/Machine/Memory.lean ====
section
/-! DEFINITION. Instruction memory: the MODEL's own (log 19), a list of (address, byte) pairs in one canonical form.
The spec's one memory cell, `NVMem[0x100]`, has no address (20_memory R41, R43) and is a field of State. -/

namespace Sys2Proof.Machine

/-- Instruction memory. An address that is not listed holds no value. -/
abbrev Memory := List Host.Cell

/-- The byte at an address; none where nothing was placed. -/
def Memory.read : Memory → Nat → Option Byte
  | [], _ => none
  | (k, b) :: m, a => if a = k then some b else Memory.read m a

/-- Place one byte, keeping the addresses rising. -/
def Memory.write : Memory → Nat → Byte → Memory
  | [], a, b => [(a, b)]
  | (k, c) :: m, a, b =>
    if a < k then (a, b) :: (k, c) :: m
    else if a = k then (a, b) :: m
    else (k, c) :: Memory.write m a b

/-- Place bytes at rising addresses. -/
def Memory.writeBytes (m : Memory) (a : Nat) : List Byte → Memory
  | [] => m
  | b :: bs => Memory.writeBytes (m.write a b) (a + 1) bs

/-- The bytes at `n` rising addresses, or the first address that holds no value. -/
def Memory.readBytes (m : Memory) (a : Nat) : Nat → Except Nat (List Byte)
  | 0 => .ok []
  | n + 1 =>
    match m.read a with
    | none => .error a
    | some b =>
      match Memory.readBytes m (a + 1) n with
      | .ok bs => .ok (b :: bs)
      | .error e => .error e

/-- The canonical form: strictly rising addresses, each one of the 64-bit address space. (No entry can equal what an
unlisted address reads as: that is no value.) -/
abbrev Memory.wf (m : Memory) : Prop :=
  List.Pairwise (fun p q : Host.Cell => p.1 < q.1) m ∧ ∀ p ∈ m, p.1 < 2 ^ 64

end Sys2Proof.Machine
end

