-- ==== Sys2Proof/Machine/Params.lean ====
section
/-! DEFINITION. The values of the static parameters that `State.reset` starts with. No step and no check fixes one:
each reads the `Impl` it is given. -/

namespace Sys2Proof

/-- The field positions that the spec adopts (10_state R11, decision D1). PRESUMED, log 1. -/
def Config.fieldPos : FieldPos where
  e0poe := 29
  tta := 28
  smen := 24
  fpen := 20
  zen := 16

/-- The parameters that `State.reset` starts with: every optional feature present, the defaults of 00_scope R6 and
95_test_vectors otherwise. DESIGN CHOICE, log 6 (no source gives a value); every step is defined for every `Impl`. -/
def Config.impl : Impl where
  haveEL3 := true
  haveEL2 := true
  featFGT := true
  featSVE := true
  featSME := true
  featS1POE := true
  traceSysreg := true
  res0Mode := .razWi
  fpenSveSmeEL2EC := 0x07
  fieldPos := Config.fieldPos

end Sys2Proof
end

