-- ==== Sys2Proof/Machine/State.lean ====
section
/-! DEFINITION. The machine's state, as plain data: the register, what the accessors touch, the inputs, the static
parameters and the turns still to come; the ways a step stops; and the state after reset. -/

namespace Sys2Proof.Machine

/-- The dynamic inputs of 00_scope R6, each independent of the others (41_register_access R114). -/
structure Env where
  /-- `PSTATE.EL` (10_state R24) -/
  el : EL
  /-- the instruction executes "In AArch32 state" -/
  aarch32 : Bool
  /-- `EL2Enabled()`, also "EL2 is implemented and enabled in the current Security state" (decision D9) -/
  el2Enabled : Bool
  /-- `HCR_EL2.TGE`, in the routing sentences -/
  tge : Bool
  /-- the Effective value of `HCR_EL2.E2H` -/
  effE2H : Bool
  /-- the Effective value of `HCR_EL2.TGE` -/
  effTGE : Bool
  /-- `ELIsInHost(EL2)` -/
  hostEL2 : Bool
  /-- `EffectiveHCR_EL2_NVx()` -/
  nvx : BitVec 3
  /-- `CPTR_EL2.TCPAC` -/
  tcpac2 : Bool
  /-- `CPTR_EL3.TCPAC` -/
  tcpac3 : Bool
  /-- `SCR_EL3.FGTEn` -/
  fgtEn : Bool
  /-- `HFGRTR_EL2.CPACR_EL1` -/
  hfgrtrCpacr : Bool
  /-- `HFGWTR_EL2.CPACR_EL1` -/
  hfgwtrCpacr : Bool
  /-- `EL3SDDUndef()` -/
  sddUndef : Bool
  /-- `EL3SDDUndefPriority()` -/
  sddUndefPrio : Bool
  /-- "the PE is in Streaming SVE mode" -/
  streamingSVE : Bool
  /-- an access to `NVMem[0x100]` faults now: the optional outcome of 20_memory R41 (b) (log 15) -/
  nvMemFault : Bool
deriving DecidableEq, Repr

/-- The instruction classes that the fields check (40_field_trap_controls R72). -/
inductive TrapClass where
  | porEL0Access
  | traceA64
  | traceA32MrcMcr
  | traceA32MrrcMcrr
  | smeInsn
  | sveInsn
  | svcrAccess
  | smcrEL1Access
  | zcrEL1Access
  | fpsimdAccess
  | mvfrWrite
  | other
deriving DecidableEq, Repr

/-- The free draws of one reset (10_state R35, R36): every value the spec calls arbitrary. -/
structure ResetDraw where
  cpacr : Word
  cptrEL2 : Word
  nvMem : Word
  x : Vector Word 31
  pc : Word
  /-- the inputs, unconstrained but for `el`, which reset sets -/
  env : Env
deriving DecidableEq, Repr

/-- What the world outside the four instructions does between two of them (log 7, 8). -/
inductive Event where
  /-- the inputs take new values (00_scope R6) -/
  | setEnv (e : Env)
  /-- the abstract event of 20_memory R50 -/
  | contextSync
  /-- an instruction of a class, supplied by the enclosing model, reaches its check (40_field_trap_controls R72,
  R84); `pick` chooses, freely, the value the check reads (R85, log 12) -/
  | check (c : TrapClass) (pick : Nat)
  /-- another agent writes `NVMem[0x100]` (20_memory R41 (a)) -/
  | agentWrite (v : Word)
  /-- a write through the AArch32 name `CPACR` (10_state R20, log 23) -/
  | writeA32 (v : BitVec 32)
  /-- an instruction outside this spec left these general registers, this pc and this `CPTR_EL2` (20_memory R52). The
  spec does not say whether an instruction that names `CPTR_EL2` changes the cell: that it may is the model's, log 29 -/
  | otherInsn (x : Vector Word 31) (pc : Word) (cptrEL2 : Word)
  /-- the one reset event (70_reset_and_hazards R150) -/
  | reset (d : ResetDraw)
deriving DecidableEq, Repr

/-- Whose turn it is: the PE executes one instruction, or the outside acts (log 8). -/
inductive Turn where
  | instruction
  | outside (e : Event)
deriving DecidableEq, Repr

/-- An ISS: the value the source gives, or `unspecified`, of which nothing may be assumed (60_exceptions R120). -/
inductive Iss where
  | value (v : BitVec 25)
  | unspecified
deriving DecidableEq, Repr

/-- What a trap records (60_exceptions R127): `(from_el, target_el, ec, iss, pc_of_instruction)`; the kind is the
constructor of `Fault` that carries it. -/
structure TrapRecord where
  fromEL : EL
  target : EL
  ec : BitVec 6
  iss : Iss
  pc : Word
deriving DecidableEq, Repr

/-- Why a run stops with a fault. Each fault leaves everything as it was before the step: the instruction had no effect. -/
inductive Fault where
  /-- `UNDEFINED` (60_exceptions R121), raised by an accessor; the spec makes it terminal. Safe: nothing after it is claimed. -/
  | undefined (fromEL : EL) (pc : Word)
  /-- `AArch64.SystemAccessTrap(target, 0x18)` (60_exceptions R122), raised by an accessor; terminal (R127). Safe. -/
  | systemAccessTrap (r : TrapRecord)
  /-- a trap by a field of `CPACR_EL1` (60_exceptions R120), raised by a check; terminal (R127). Safe. -/
  | trap (r : TrapRecord)
  /-- `NVMemFault` (20_memory R41), raised by an accessor on an `NVMem[0x100]` path when the input says so. Safe. -/
  | nvMemFault (fromEL : EL) (pc : Word)
  /-- the fetch found a pc that is no multiple of 4 (PRESUMED, log 19). Safe: the model goes no further. -/
  | fetchUnaligned (pc : Word)
  /-- the fetch found an address that holds no byte (log 19). Safe: the model goes no further. -/
  | fetchUnmapped (addr : Nat)
deriving DecidableEq, Repr

/-- Why a step has no meaning. -/
inductive Refusal where
  /-- an instruction without a meaning yet; no arm of `exec` answers it. Safe. -/
  | notModelled (mnemonic : String)
  /-- the fetch read a word that is none of the four patterns (30_encoding R62). Safe. -/
  | undecodable (why : DecodeError)
  /-- the fetch is made in AArch32 state, where the four words are no instructions (30_encoding R63, log 22). Safe. -/
  | aarch32State
  /-- unsynchronised accesses through both names at EL3, one of them a write (20_memory R48, 41 R115), refused by an
  accessor. Safe. -/
  | crossMnemonic
  /-- a check of class `MVFR_WRITE`, CONSTRAINED UNPREDICTABLE (40_field_trap_controls R81). Safe. -/
  | mvfrWrite
deriving DecidableEq, Repr

/-- Everything the spec gives the machine; INVENTORY.md lists each field with its rule and its value at reset. -/
structure State where
  /-- the static parameters (00_scope R6); no step changes them -/
  impl : Impl
  /-- the dynamic inputs (00_scope R6), `PSTATE.EL` among them -/
  env : Env
  /-- the program counter (10_state R25) -/
  pc : Word
  /-- X0 to X30 (10_state R21) -/
  x : Vector Word 31
  /-- `CPACR_EL1`, the newest value written (10_state R10); it has no memory-mapped view, so it is apart from `mem` and
  `nvMem` (60_exceptions R133) -/
  cpacr : Word
  /-- the pending older values of `CPACR_EL1` (20_memory R49): a set, as a strictly rising list -/
  stale : List Word
  /-- the mnemonic of the last access at EL3 since the last `ContextSync` (20_memory R48) -/
  lastMn : Option Mnemonic
  /-- whether an access through that mnemonic since then was a write (20_memory R48) -/
  lastWasWrite : Bool
  /-- the model's own: those accesses were made through both names, all of them reads (20_memory R47, log 14) -/
  bothNames : Bool
  /-- `CPTR_EL2`, an opaque cell (10_state R26) -/
  cptrEL2 : Word
  /-- `NVMem[0x100]` (20_memory R41) -/
  nvMem : Word
  /-- instruction memory, the model's own (log 19) -/
  mem : Memory
  /-- the turns still to come, the model's own (log 8); when it is empty it is the PE's turn -/
  schedule : List Turn
deriving DecidableEq, Repr

/-- What a step or a meaning answers. -/
abbrev Result := Host.Outcome State Fault Refusal

/-- The state a reset leaves, from its free draws (10_state R35, R36; 70_reset_and_hazards R150): the register through
the RES0 rule, the highest Exception level, no pending value, no access noted. -/
def State.boot (impl : Impl) (mem : Memory) (schedule : List Turn) (d : ResetDraw) : State where
  impl := impl
  env := { d.env with el := highestEL impl }
  pc := d.pc
  x := d.x
  cpacr := storeFilter impl d.cpacr
  stale := []
  lastMn := none
  lastWasWrite := false
  bothNames := false
  cptrEL2 := d.cptrEL2
  nvMem := d.nvMem
  mem := mem
  schedule := schedule

/-- The quiet inputs of 95_test_vectors' conventions. DESIGN CHOICE, log 5: the spec leaves them unconstrained. -/
def Env.quiet : Env where
  el := .el3
  aarch32 := false
  el2Enabled := false
  tge := false
  effE2H := false
  effTGE := false
  hostEL2 := false
  nvx := 0
  tcpac2 := false
  tcpac3 := false
  fgtEn := false
  hfgrtrCpacr := false
  hfgwtrCpacr := false
  sddUndef := false
  sddUndefPrio := false
  streamingSVE := false
  nvMemFault := false

/-- The draw of `State.reset`: free constants where the spec says arbitrary; pc 0 and quiet inputs (DESIGN CHOICE, log 5). -/
def ResetDraw.atReset : ResetDraw where
  cpacr := Config.resetCpacr
  cptrEL2 := Config.resetCptrEL2
  nvMem := Config.resetNvMem
  x := #v[Config.resetX 0, Config.resetX 1, Config.resetX 2, Config.resetX 3, Config.resetX 4, Config.resetX 5,
    Config.resetX 6, Config.resetX 7, Config.resetX 8, Config.resetX 9, Config.resetX 10, Config.resetX 11,
    Config.resetX 12, Config.resetX 13, Config.resetX 14, Config.resetX 15, Config.resetX 16, Config.resetX 17,
    Config.resetX 18, Config.resetX 19, Config.resetX 20, Config.resetX 21, Config.resetX 22, Config.resetX 23,
    Config.resetX 24, Config.resetX 25, Config.resetX 26, Config.resetX 27, Config.resetX 28, Config.resetX 29,
    Config.resetX 30]
  pc := 0
  env := Env.quiet

/-- The machine right after reset (10_state R35, R36; 70_reset_and_hazards R150, R151). -/
def State.reset : State := State.boot Config.impl [] [] ResetDraw.atReset

end Sys2Proof.Machine
end

