-- ==== Sys2Proof/Machine/Operands.lean ====
section
/-! DEFINITION. The one operand form, `<Xt>`: a 64-bit general register, register 31 being the zero register
(10_state R21, R22, R23; 30_encoding R58). -/

namespace Sys2Proof.Machine

/-- `X[t]` of a register file: numbers above 30 read as 64 zero bits (10_state R23). -/
def getX (t : Nat) (x : Vector Word 31) : Word :=
  if h : t < 31 then x[t] else 0

/-- The register file after `X[t] <- v`: numbers above 30 discard `v` (10_state R23). -/
def setX (t : Nat) (v : Word) (x : Vector Word 31) : Vector Word 31 :=
  if h : t < 31 then x.set t v else x

/-- `X[t]`, all 64 bits (10_state R22). -/
def State.readX (s : State) (t : Nat) : Word := getX t s.x

/-- `X[t] <- v`, all 64 bits (10_state R22). -/
def State.writeX (s : State) (t : Nat) (v : Word) : State := { s with x := setX t v s.x }

end Sys2Proof.Machine
end

