-- ==== Sys2Proof/Machine/Ops.lean ====
section
/-! DEFINITION. The named operations over registers and the memory cell that every meaning is written in: writing
`CPACR_EL1` with its pending values, synchronisation, taking an exception, the cross-mnemonic rule, and the read and
the write of whatever storage an access reaches. -/

namespace Sys2Proof.Machine

/-- `pc <- pc + 4`, the normal completion of an accessor (10_state R25, log 18). -/
def State.advancePC (s : State) : State := { s with pc := s.pc + 4 }

/-- `stale ∪ {v}`, the set as a strictly rising list (20_memory R49). -/
def insertStale (v : Word) : List Word → List Word
  | [] => [v]
  | w :: ws =>
    if v.toNat < w.toNat then v :: w :: ws
    else if v = w then w :: ws
    else w :: insertStale v ws

/-- `CPACR_EL1 <- v`: the value it held becomes pending, then the filtered value is stored (41_register_access R112). -/
def State.writeCpacr (s : State) (v : Word) : State :=
  { s with stale := insertStale s.cpacr s.stale, cpacr := storeFilter s.impl v }

/-- `CPTR_EL2 <- v`, all 64 bits (41_register_access R112). -/
def State.writeCptrEL2 (s : State) (v : Word) : State := { s with cptrEL2 := v }

/-- `NVMem[0x100] <- v`, all 64 bits, unfiltered (41_register_access R112, 20_memory R40). -/
def State.writeNvMem (s : State) (v : Word) : State := { s with nvMem := v }

/-- `ContextSync`: no value is pending, no access at EL3 is noted (20_memory R48, R49, R50). -/
def State.contextSync (s : State) : State := 
  { s with stale := [], lastMn := none, lastWasWrite := false, bothNames := false }

/-- The AArch32 register `CPACR`: bits [31:0] of the same storage (10_state R20). -/
def State.cpacrA32 (s : State) : BitVec 32 := s.cpacr.extractLsb' 0 32

/-- A write through the AArch32 name: bits [31:0] are replaced, the others kept (10_state R20, log 23). -/
def State.writeCpacrA32 (s : State) (v : BitVec 32) : State :=
  s.writeCpacr (s.cpacr.extractLsb' 32 32 ++ v)

/-- The value a trap check reads: one element of `{CPACR_EL1} ∪ stale`, chosen by `pick` (20_memory R49,
40_field_trap_controls R85). Number 0 is the current value; a number past the set is the current value too. -/
def State.checkValue (s : State) (pick : Nat) : Word := (s.cpacr :: s.stale).getD pick s.cpacr

/-- What an instruction may raise (60_exceptions R120 to R122; 20_memory R41). -/
inductive Raised where
  | undefined
  | systemAccessTrap (target : EL)
  | trap (target : EL) (ec : BitVec 6) (iss : Iss)
  | nvMemFault
deriving DecidableEq, Repr

/-- The EC of `AArch64.SystemAccessTrap(target, 0x18)` (60_exceptions R122). -/
def ecSystemAccess : BitVec 6 := 0x18

/-- Taking an exception, the one operation for all of them: the step ends with the record of 60_exceptions R127 and
no other effect. Entry at the target level, and return from it, are outside the spec (R127, R129, log 9). -/
def raise (r : Raised) (s : State) : Result :=
  .fault (match r with
    | .undefined => .undefined s.env.el s.pc
    | .systemAccessTrap target => .systemAccessTrap ⟨s.env.el, target, ecSystemAccess, .unspecified, s.pc⟩
    | .trap target ec iss => .trap ⟨s.env.el, target, ec, iss, s.pc⟩
    | .nvMemFault => .nvMemFault s.env.el s.pc)

/-- Where the cross-mnemonic rule watches: EL3 with Effective E2H = 1 (20_memory R48). -/
def State.orderWatched (s : State) : Bool := s.env.el == .el3 && s.env.effE2H

/-- The hazard of 20_memory R47 and R48: an access since the last `ContextSync` was through the other mnemonic, and one
of the two is a write. That access is the last one, or a read before it (decision D12, log 14). -/
def State.mnemonicHazard (s : State) (m : Mnemonic) (isWrite : Bool) : Bool :=
  s.orderWatched &&
    ((s.lastMn == some m.other && (isWrite || s.lastWasWrite)) || (s.bothNames && isWrite))

/-- The note that an access leaves for the next ones (20_memory R48, log 14, 31). -/
def State.noteAccess (s : State) (m : Mnemonic) (isWrite : Bool) : State :=
  { s with
    lastMn := if s.orderWatched then some m else s.lastMn
    lastWasWrite := if s.orderWatched then isWrite || (s.lastMn == some m && s.lastWasWrite) else s.lastWasWrite
    bothNames := if s.orderWatched then s.bothNames || s.lastMn == some m.other else s.bothNames }

/-- Where the pseudocode of an accessor ends: it raises, or it reaches one storage (41_register_access R108). -/
inductive Route where
  | undefined
  | trapTo (target : EL)
  | cpacr
  | cptrEL2
  | nvMem
deriving DecidableEq, Repr

/-- The `MRS` side of a route: `X[t] <- ` the storage reached, `pc <- pc + 4`; or what is raised. -/
def readRoute (r : Route) (t : Nat) (s : State) : Result :=
  match r with
  | .undefined => raise .undefined s
  | .trapTo target => raise (.systemAccessTrap target) s
  | .cpacr => .next (s.writeX t s.cpacr).advancePC
  | .cptrEL2 => .next (s.writeX t s.cptrEL2).advancePC
  | .nvMem => if s.env.nvMemFault then raise .nvMemFault s else .next (s.writeX t s.nvMem).advancePC

/-- The `MSR` side of a route: the storage reached `<- X[t]`, `pc <- pc + 4`; or what is raised. -/
def writeRoute (r : Route) (t : Nat) (s : State) : Result :=
  match r with
  | .undefined => raise .undefined s
  | .trapTo target => raise (.systemAccessTrap target) s
  | .cpacr => .next (s.writeCpacr (s.readX t)).advancePC
  | .cptrEL2 => .next (s.writeCptrEL2 (s.readX t)).advancePC
  | .nvMem => if s.env.nvMemFault then raise .nvMemFault s else .next (s.writeNvMem (s.readX t)).advancePC

end Sys2Proof.Machine
end

