-- ==== Sys2Proof/Machine/SysregMove.lean ====
section
/-! DEFINITION. The family SYSREG_MOVE: the four accessor instructions (41_register_access R100 to R103). The order
of the arms is the priority order of the outcomes (00_scope R8, 60_exceptions R128). -/

namespace Sys2Proof.Machine

/-- The arms that end in `CPTR_EL3.TCPAC`, when the storage reached below them is `r` (41_register_access R100 to R103). -/
def el3Gate (impl : Impl) (env : Env) (r : Route) : Route :=
  if impl.haveEL3 && env.tcpac3 then (if env.sddUndef then .undefined else .trapTo .el3) else r

/-- `HaveEL(EL3) && EL3SDDUndefPriority() && CPTR_EL3.TCPAC == '1'` (41_register_access R100). -/
def sddUndefFirst (impl : Impl) (env : Env) : Bool := impl.haveEL3 && env.sddUndefPrio && env.tcpac3

/-- The fine-grained trap to EL2; `hfg` is `HFGRTR_EL2.CPACR_EL1` for a read and `HFGWTR_EL2.CPACR_EL1` for a write
(41_register_access R100, R101). -/
def fineGrainedTrap (impl : Impl) (env : Env) (hfg : Bool) : Bool :=
  env.el2Enabled && impl.featFGT && (!impl.haveEL3 || env.fgtEn) && hfg

/-- Where an access by the name `CPACR_EL1` ends (41_register_access R100, R101). -/
def routeCpacrEL1 (impl : Impl) (env : Env) (hfg : Bool) : Route :=
  match env.el with
  | .el0 => .undefined
  | .el1 =>
    if sddUndefFirst impl env then .undefined
    else if env.el2Enabled && env.tcpac2 then .trapTo .el2
    else if fineGrainedTrap impl env hfg then .trapTo .el2
    else el3Gate impl env (if env.nvx == 0b111 then .nvMem else .cpacr)
  | .el2 =>
    if sddUndefFirst impl env then .undefined
    else el3Gate impl env (if env.hostEL2 then .cptrEL2 else .cpacr)
  | .el3 => .cpacr

/-- Where an access by the name `CPACR_EL12` ends (41_register_access R102, R103). -/
def routeCpacrEL12 (impl : Impl) (env : Env) : Route :=
  match env.el with
  | .el0 => .undefined
  | .el1 =>
    if env.nvx == 0b101 then .nvMem
    else if env.nvx.getLsbD 0 then .trapTo .el2
    else .undefined
  | .el2 =>
    if env.hostEL2 then
      if sddUndefFirst impl env then .undefined else el3Gate impl env .cpacr
    else .undefined
  | .el3 => if env.hostEL2 then .cpacr else .undefined

/-- `MRS <Xt>, CPACR_EL1` (41_register_access R100; R115 before anything else). -/
def execMrsCpacrEl1 (t : Nat) (s : State) : Result :=
  if s.mnemonicHazard .cpacrEL1 false then .refused .crossMnemonic
  else readRoute (routeCpacrEL1 s.impl s.env s.env.hfgrtrCpacr) t (s.noteAccess .cpacrEL1 false)

/-- `MSR CPACR_EL1, <Xt>` (41_register_access R101; R115 before anything else). -/
def execMsrCpacrEl1 (t : Nat) (s : State) : Result :=
  if s.mnemonicHazard .cpacrEL1 true then .refused .crossMnemonic
  else writeRoute (routeCpacrEL1 s.impl s.env s.env.hfgwtrCpacr) t (s.noteAccess .cpacrEL1 true)

/-- `MRS <Xt>, CPACR_EL12` (41_register_access R102; R115 before anything else). -/
def execMrsCpacrEl12 (t : Nat) (s : State) : Result :=
  if s.mnemonicHazard .cpacrEL12 false then .refused .crossMnemonic
  else readRoute (routeCpacrEL12 s.impl s.env) t (s.noteAccess .cpacrEL12 false)

/-- `MSR CPACR_EL12, <Xt>` (41_register_access R103; R115 before anything else). -/
def execMsrCpacrEl12 (t : Nat) (s : State) : Result :=
  if s.mnemonicHazard .cpacrEL12 true then .refused .crossMnemonic
  else writeRoute (routeCpacrEL12 s.impl s.env) t (s.noteAccess .cpacrEL12 true)

end Sys2Proof.Machine
end

