-- ==== Sys2Proof/Machine/Dispatch.lean ====
section
/-! DEFINITION. Which meaning each instruction has. -/

namespace Sys2Proof.Machine

def exec (i : Instr) (s : State) : Host.Outcome State Fault Refusal :=
  match i with
  | .mrsCpacrEl1 t => Sys2Proof.Machine.execMrsCpacrEl1 t s
  | .msrCpacrEl1 t => Sys2Proof.Machine.execMsrCpacrEl1 t s
  | .mrsCpacrEl12 t => Sys2Proof.Machine.execMrsCpacrEl12 t s
  | .msrCpacrEl12 t => Sys2Proof.Machine.execMsrCpacrEl12 t s

end Sys2Proof.Machine
end

