-- ==== Sys2Proof/Machine/Checks.lean ====
section
/-! DEFINITION. The trap checks that the fields of `CPACR_EL1` make (40_field_trap_controls R70 to R87). -/

namespace Sys2Proof.Machine

/-- `Overridden(Env)`: the host configuration, in which the fields have no effect (40_field_trap_controls R70). -/
def overridden (env : Env) : Bool := env.el2Enabled && env.effE2H && env.effTGE

/-- `Active(Env)`: EL0 or EL1, and not overridden (40_field_trap_controls R71). -/
def active (env : Env) : Bool := (env.el == .el0 || env.el == .el1) && !overridden env

/-- `Target(Env)`: where a trap goes (40_field_trap_controls R73). -/
def trapTarget (env : Env) : EL := if env.el2Enabled && env.tge then .el2 else .el1

/-- What a check answers (40_field_trap_controls R84). -/
inductive CheckResult where
  | noTrap
  | refuse
  | trap (target : EL) (ec : BitVec 6) (iss : Iss)
deriving DecidableEq, Repr

/-- The first answer, unless it is `noTrap`: precedence (40_field_trap_controls R82). -/
def CheckResult.before (a b : CheckResult) : CheckResult :=
  match a with
  | .noTrap => b
  | .refuse => .refuse
  | .trap target ec iss => .trap target ec iss

/-- A trap to `Target(Env)` under a condition. -/
def trapIf (c : Bool) (env : Env) (ec : BitVec 6) (iss : Iss) : CheckResult :=
  if c then .trap (trapTarget env) ec iss else .noTrap

/-- E0POE (40_field_trap_controls R75). -/
def checkE0POE (env : Env) (impl : Impl) (v : Word) : CheckResult :=
  trapIf (active env && env.el == .el0 && !env.aarch32 && impl.featS1POE && !e0poe impl.fieldPos v) env 0x18 .unspecified

/-- TTA, with the EC of the kind of access (40_field_trap_controls R76). -/
def checkTTA (env : Env) (impl : Impl) (v : Word) (ec : BitVec 6) : CheckResult :=
  trapIf (active env && impl.traceSysreg && tta impl.fieldPos v) env ec .unspecified

/-- SMEN (40_field_trap_controls R77). -/
def checkSMEN (env : Env) (impl : Impl) (v : Word) : CheckResult :=
  trapIf (active env && impl.featSME && en2Traps (smen impl.fieldPos v) env.el) env 0x1D (.value 0)

/-- ZEN (40_field_trap_controls R80). -/
def checkZEN (env : Env) (impl : Impl) (v : Word) : CheckResult :=
  trapIf (active env && impl.featSVE && en2Traps (zen impl.fieldPos v) env.el) env 0x19 .unspecified

/-- FPEN on Advanced SIMD and floating-point register accesses: the EC depends on the target
(40_field_trap_controls R78). -/
def checkFPENSimd (env : Env) (impl : Impl) (v : Word) : CheckResult :=
  trapIf (active env && en2Traps (fpen impl.fieldPos v) env.el) env
    (if trapTarget env = .el2 then 0x00 else 0x07) .unspecified

/-- FPEN on SME and SVE instructions (40_field_trap_controls R79). -/
def checkFPENVector (env : Env) (impl : Impl) (v : Word) : CheckResult :=
  trapIf (active env && en2Traps (fpen impl.fieldPos v) env.el) env
    (if trapTarget env = .el2 then impl.fpenSveSmeEL2EC else 0x07) .unspecified

/-- `CpacrCheck(class, Env, Impl, v)` (40_field_trap_controls R84). -/
def cpacrCheck (c : TrapClass) (env : Env) (impl : Impl) (v : Word) : CheckResult :=
  match c with
  | .mvfrWrite => .refuse
  | .porEL0Access => checkE0POE env impl v
  | .traceA64 => checkTTA env impl v 0x18
  | .traceA32MrcMcr => checkTTA env impl v 0x05
  | .traceA32MrrcMcrr => checkTTA env impl v 0x0C
  | .svcrAccess => checkSMEN env impl v
  | .smcrEL1Access => checkSMEN env impl v
  | .zcrEL1Access => checkZEN env impl v
  | .smeInsn => (checkSMEN env impl v).before (checkFPENVector env impl v)
  | .sveInsn =>
    (if !impl.featSVE || env.streamingSVE then checkSMEN env impl v else checkZEN env impl v).before
      (checkFPENVector env impl v)
  | .fpsimdAccess => checkFPENSimd env impl v
  | .other => .noTrap

end Sys2Proof.Machine
end

