-- ==== Sys2Proof/Machine/Events.lean ====
section
/-! DEFINITION. What the outside world does between instructions (INVENTORY.md, Host interface; log 7, 8). -/

namespace Sys2Proof.Machine

/-- An instruction of a trapped class reaches its check: it is trapped and has no effect (40_field_trap_controls R74),
or refused (R81), or not trapped, and then its own effect is the enclosing model's (R84, R87). -/
def checkEvent (c : TrapClass) (pick : Nat) (s : State) : Result :=
  match cpacrCheck c s.env s.impl (s.checkValue pick) with
  | .noTrap => .next s
  | .refuse => .refused .mvfrWrite
  | .trap target ec iss => raise (.trap target ec iss) s

/-- The effect of an event. A reset keeps the static parameters, the instruction memory and the turns to come
(10_state R35, R36; log 30); an instruction outside the spec may change `CPTR_EL2` (log 29). -/
def applyEvent (e : Event) (s : State) : Result :=
  match e with
  | .setEnv env => .next { s with env := env }
  | .contextSync => .next s.contextSync
  | .check c pick => checkEvent c pick s
  | .agentWrite v => .next (s.writeNvMem v)
  | .writeA32 v => .next (s.writeCpacrA32 v)
  | .otherInsn x pc cptrEL2 => .next { s with x := x, pc := pc, cptrEL2 := cptrEL2 }
  | .reset d => .next (State.boot s.impl s.mem s.schedule d)

end Sys2Proof.Machine
end

