-- ==== Sys2Proof/Machine/Fetch.lean ====
section
/-! DEFINITION. Fetching the instruction at the pc, and placing a word there. Fetch is the MODEL's own: the spec names
it and gives nothing (20_memory R42, R43, R53; log 18, 19, 22). -/

namespace Sys2Proof.Machine

/-- What a fetch answers. -/
inductive Fetched where
  | instr (i : Instr)
  | fault (f : Fault)
  | refused (r : Refusal)
deriving DecidableEq, Repr

/-- The instruction of the word at the pc: AArch64 state only, 4-byte aligned, every byte present, one of the four
patterns (30_encoding R57, R62, R63). -/
def fetch (s : State) : Fetched :=
  if s.env.aarch32 then .refused .aarch32State
  else if s.pc.toNat % 4 ≠ 0 then .fault (.fetchUnaligned s.pc)
  else
    match s.mem.readBytes s.pc.toNat 4 with
    | .error a => .fault (.fetchUnmapped a)
    | .ok bytes =>
      match decode bytes with
      | .error e => .refused (.undecodable e)
      | .ok (i, _) => .instr i

/-- The state whose very next step fetches the word `w`: the word at the pc (made a multiple of 4), AArch64 state, the
PE's turn. Nothing else changes. -/
def State.placeWord (s : State) (w : InsnWord) : State :=
  let pc := s.pc &&& ~~~ 3
  { s with
    pc := pc
    env := { s.env with aarch32 := false }
    mem := s.mem.writeBytes pc.toNat (wordBytes w)
    schedule := [] }

end Sys2Proof.Machine
end

