-- ==== Sys2Proof/Machine/Step.lean ====
section
/-! DEFINITION. One step: the turn that the schedule names, or the PE's when it names none. -/

namespace Sys2Proof.Machine

/-- The PE's turn: fetch at the pc and execute. -/
def stepInstruction (s : State) : Host.Outcome State Fault Refusal :=
  match fetch s with
  | .instr i => exec i s
  | .fault f => .fault f
  | .refused r => .refused r

/-- One step of the machine; the turn taken is taken off the schedule. -/
def step (s : State) : Host.Outcome State Fault Refusal :=
  match s.schedule with
  | [] => stepInstruction s
  | .instruction :: rest => stepInstruction { s with schedule := rest }
  | .outside e :: rest => applyEvent e { s with schedule := rest }

/-- `s` with the low `nbits` bits of `w` as the word that the very next step fetches (log 28). -/
def State.withFetchWord (s : State) (nbits w : Nat) : State := s.placeWord (tableWord nbits w)

end Sys2Proof.Machine
end

