-- ==== Sys2Proof/Safety.lean ====
section
/-! DEFINITION. The terms that statements are made in: the invariant of the machine, when an accessor reaches which
storage and what it then leaves, and the whole trap check as 40_field_trap_controls R84 writes it. -/

namespace Sys2Proof.Machine

/-- A pending set in its one form: strictly rising. -/
def staleWf (l : List Word) : Prop := List.Pairwise (fun v w : Word => v.toNat < w.toNat) l

/-- A value that a register with `Res0Mode = RAZ_WI` can hold: 0 in every RES0 bit (10_state R13). -/
def reservedClear (impl : Impl) (v : Word) : Prop :=
  impl.res0Mode = .razWi → v &&& ~~~ liveMask impl = 0

/-- What holds of the machine at reset and after every step: memory and pending set in their canonical forms, the RES0
rule on the register and on every pending value (10_state R13), and a coherent note of 20_memory R48: nothing is noted
where no access is, and accesses through both names are reads. -/
structure State.Inv (s : State) : Prop where
  mem_wf : s.mem.wf
  stale_wf : staleWf s.stale
  cpacr_res0 : reservedClear s.impl s.cpacr
  stale_res0 : ∀ v ∈ s.stale, reservedClear s.impl v
  note : s.lastMn = none → s.lastWasWrite = false ∧ s.bothNames = false
  note_reads : s.bothNames = true → s.lastWasWrite = false

/-- The bytes at the pc are an instruction that AArch64 state can fetch. -/
structure State.Fetches (s : State) (i : Instr) : Prop where
  a64 : s.env.aarch32 = false
  aligned : s.pc.toNat % 4 = 0
  word : ∃ bytes rest, s.mem.readBytes s.pc.toNat 4 = .ok bytes ∧ decode bytes = .ok (i, rest)

/-- It is the PE's turn: the schedule is empty or names an instruction first. -/
def State.insnTurn (s : State) : Prop := s.schedule = [] ∨ ∃ rest, s.schedule = .instruction :: rest

/-- The state with its first turn taken off. -/
def State.turnTaken (s : State) : State := { s with schedule := s.schedule.tail }

/-- The three storages that an accessor can reach (41_register_access R108). -/
inductive Storage where
  | cpacr | cptrEL2 | nvMem
deriving DecidableEq, Repr

/-- What a storage holds. -/
def State.held (s : State) : Storage → Word
  | .cpacr => s.cpacr
  | .cptrEL2 => s.cptrEL2
  | .nvMem => s.nvMem

/-- What a write to a storage leaves (41_register_access R112): `CPACR_EL1` through the RES0 rule, its old value
pending; the other two all 64 bits. -/
def State.stored (s : State) (p : Storage) (v : Word) : State :=
  match p with
  | .cpacr => { s with cpacr := storeFilter s.impl v, stale := insertStale s.cpacr s.stale }
  | .cptrEL2 => { s with cptrEL2 := v }
  | .nvMem => { s with nvMem := v }

/-- The fine-grained trap bit for the direction (41_register_access R105). -/
def State.hfg (s : State) (isWrite : Bool) : Bool := if isWrite then s.env.hfgwtrCpacr else s.env.hfgrtrCpacr

/-- `CPTR_EL3.TCPAC` does not act (41_register_access R105 rows 1, 4, 5). -/
def State.el3TrapOff (s : State) : Prop := ¬ (s.impl.haveEL3 = true ∧ s.env.tcpac3 = true)

/-- Neither trap to EL2 acts (41_register_access R105 rows 2, 3). -/
def State.el2TrapsOff (s : State) (isWrite : Bool) : Prop :=
  ¬ (s.env.el2Enabled = true ∧ s.env.tcpac2 = true) ∧
  ¬ (s.env.el2Enabled = true ∧ s.impl.featFGT = true ∧ (s.impl.haveEL3 = false ∨ s.env.fgtEn = true) ∧
      s.hfg isWrite = true)

/-- An access by a name reaches a storage: the table of 41_register_access R108, with the conditions of R105 to R107. -/
def State.reaches (s : State) (m : Mnemonic) (isWrite : Bool) (p : Storage) : Prop :=
  match m, p with
  | .cpacrEL1, .cpacr =>
    (s.env.el = .el1 ∧ s.el3TrapOff ∧ s.el2TrapsOff isWrite ∧ s.env.nvx ≠ 0b111) ∨
    (s.env.el = .el2 ∧ s.el3TrapOff ∧ s.env.hostEL2 = false) ∨ s.env.el = .el3
  | .cpacrEL1, .cptrEL2 => s.env.el = .el2 ∧ s.el3TrapOff ∧ s.env.hostEL2 = true
  | .cpacrEL1, .nvMem => s.env.el = .el1 ∧ s.el3TrapOff ∧ s.el2TrapsOff isWrite ∧ s.env.nvx = 0b111
  | .cpacrEL12, .cpacr =>
    (s.env.el = .el2 ∧ s.env.hostEL2 = true ∧ s.el3TrapOff) ∨ (s.env.el = .el3 ∧ s.env.hostEL2 = true)
  | .cpacrEL12, .cptrEL2 => False
  | .cpacrEL12, .nvMem => s.env.el = .el1 ∧ s.env.nvx = 0b101

/-- Accesses at EL3 with Effective E2H = 1 are the ones that 20_memory R47 and R48 speak of. -/
def State.watched (s : State) : Prop := s.env.el = .el3 ∧ s.env.effE2H = true

/-- An access that 20_memory R47 leaves unordered, and R48 refuses (decision D12): a noted access was through the other
name, and one of the two is a write. Either the last access was by the other name, or reads by both names are noted. -/
def State.unordered (s : State) (m : Mnemonic) (isWrite : Bool) : Prop :=
  s.watched ∧ ((s.lastMn = some m.other ∧ (isWrite = true ∨ s.lastWasWrite = true)) ∨
    (s.bothNames = true ∧ isWrite = true))

/-- The part of the next state that every completing accessor has: `pc + 4` (10_state R25) and the note of 20_memory R48. -/
def State.accessed (s : State) (m : Mnemonic) (isWrite : Bool) : State :=
  { s with
    pc := s.pc + 4
    lastMn := if s.env.el = .el3 ∧ s.env.effE2H = true then some m else s.lastMn
    lastWasWrite :=
      if s.env.el = .el3 ∧ s.env.effE2H = true then isWrite || (decide (s.lastMn = some m) && s.lastWasWrite)
      else s.lastWasWrite
    bothNames :=
      if s.env.el = .el3 ∧ s.env.effE2H = true then s.bothNames || decide (s.lastMn = some m.other) else s.bothNames }

/-- An access can complete: it is ordered, it reaches the storage, and a memory access does not fault (20_memory R41). -/
structure State.canAccess (s : State) (m : Mnemonic) (isWrite : Bool) (p : Storage) : Prop where
  ordered : ¬ s.unordered m isWrite
  reaches : s.reaches m isWrite p
  noFault : p = .nvMem → s.env.nvMemFault = false

/-- The outcome `raise Undefined` (60_exceptions R121). -/
def State.undefinedHere (s : State) : Result := .fault (.undefined s.env.el s.pc)

/-- The outcome `raise SystemAccessTrap(target, 0x18)` (60_exceptions R122). -/
def State.accessTrapTo (s : State) (target : EL) : Result :=
  .fault (.systemAccessTrap ⟨s.env.el, target, 0x18, .unspecified, s.pc⟩)

/-- "EL2 is implemented and enabled ... and the Effective value of HCR_EL2.{E2H, TGE} == {1, 1}" (40 R70). -/
def Env.hostOverride (env : Env) : Prop := env.el2Enabled = true ∧ env.effE2H = true ∧ env.effTGE = true

/-- The levels and the configuration that the fields act in (40_field_trap_controls R71). -/
def Env.fieldsAct (env : Env) : Prop := (env.el = .el0 ∨ env.el = .el1) ∧ ¬ env.hostOverride

/-- "to EL1, or to EL2 when it is implemented and enabled ... and HCR_EL2.TGE is 1" (40_field_trap_controls R73). -/
def Env.routesToEL2 (env : Env) : Prop := env.el2Enabled = true ∧ env.tge = true

/-- What the source fixes of the layout (10_state R11): the order, E0POE and TTA adjacent, a reserved gap between each
other pair, a reserved range above E0POE and below ZEN, every field in bits [31:0]. -/
def fitsDiagram (pos : FieldPos) : Prop :=
  0 < pos.zen ∧ pos.zen + 2 < pos.fpen ∧ pos.fpen + 2 < pos.smen ∧ pos.smen + 2 < pos.tta ∧
  pos.tta + 1 = pos.e0poe ∧ pos.e0poe < 31

/-- The rows of the two-bit value tables (10_state R16, R17, R18): a value traps at a level. -/
def fieldTraps (f : BitVec 2) (el : EL) : Prop :=
  (el = .el0 ∧ (f = 0b00 ∨ f = 0b01 ∨ f = 0b10)) ∨ (el = .el1 ∧ (f = 0b00 ∨ f = 0b10))

/-- `c` is a trap with this EC and ISS to where every field's trap goes (40_field_trap_controls R73). -/
def trapsWith (env : Env) (c : CheckResult) (ec : BitVec 6) (iss : Iss) : Prop :=
  (env.routesToEL2 → c = .trap .el2 ec iss) ∧ (¬ env.routesToEL2 → c = .trap .el1 ec iss)

/-- The value the two-bit fields of `v` have, as the function of 40_field_trap_controls R84 reads them. -/
def specEn2Traps (v : Word) (lo : Nat) (el : EL) : Bool :=
  (decide (el = .el0) && !(v.getLsbD (lo + 1) && v.getLsbD lo)) || (decide (el = .el1) && !v.getLsbD lo)

/-- `CpacrCheck` written as 40_field_trap_controls R84 writes it, arm by arm, on the bits of `v`. -/
def specCpacrCheck (c : TrapClass) (env : Env) (impl : Impl) (v : Word) : CheckResult :=
  if c = .mvfrWrite then .refuse
  else if !((decide (env.el = .el0) || decide (env.el = .el1)) &&
      !(env.el2Enabled && env.effE2H && env.effTGE)) then .noTrap
  else
    let tgt : EL := if env.el2Enabled && env.tge then .el2 else .el1
    let fpenVector : CheckResult :=
      if specEn2Traps v impl.fieldPos.fpen env.el then
        .trap tgt (if tgt = .el2 then impl.fpenSveSmeEL2EC else 0x07) .unspecified
      else .noTrap
    match c with
    | .porEL0Access =>
      if decide (env.el = .el0) && !env.aarch32 && impl.featS1POE && !v.getLsbD impl.fieldPos.e0poe then .trap tgt 0x18 .unspecified
      else .noTrap
    | .traceA64 => if impl.traceSysreg && v.getLsbD impl.fieldPos.tta then .trap tgt 0x18 .unspecified else .noTrap
    | .traceA32MrcMcr => if impl.traceSysreg && v.getLsbD impl.fieldPos.tta then .trap tgt 0x05 .unspecified else .noTrap
    | .traceA32MrrcMcrr => if impl.traceSysreg && v.getLsbD impl.fieldPos.tta then .trap tgt 0x0C .unspecified else .noTrap
    | .svcrAccess => if impl.featSME && specEn2Traps v impl.fieldPos.smen env.el then .trap tgt 0x1D (.value 0) else .noTrap
    | .smcrEL1Access => if impl.featSME && specEn2Traps v impl.fieldPos.smen env.el then .trap tgt 0x1D (.value 0) else .noTrap
    | .zcrEL1Access => if impl.featSVE && specEn2Traps v impl.fieldPos.zen env.el then .trap tgt 0x19 .unspecified else .noTrap
    | .smeInsn =>
      if impl.featSME && specEn2Traps v impl.fieldPos.smen env.el then .trap tgt 0x1D (.value 0) else fpenVector
    | .sveInsn =>
      if !impl.featSVE || env.streamingSVE then
        if impl.featSME && specEn2Traps v impl.fieldPos.smen env.el then .trap tgt 0x1D (.value 0) else fpenVector
      else
        if specEn2Traps v impl.fieldPos.zen env.el then .trap tgt 0x19 .unspecified else fpenVector
    | .fpsimdAccess =>
      if specEn2Traps v impl.fieldPos.fpen env.el then (if tgt = .el2 then .trap .el2 0x00 .unspecified else .trap .el1 0x07 .unspecified)
      else .noTrap
    | .mvfrWrite => .refuse
    | .other => .noTrap

end Sys2Proof.Machine
end

