-- ==== Sys2Proof/Certificates/Slice0/Obligations.lean ====
section
/-! DEFINITION. The statements for the provers. Terms such as `canAccess`, `reaches`, `accessed` and `stored` are
Safety.lean's; `[n]` names the entry notes/assumptions/n.md. -/

open Sys2Proof Sys2Proof.Machine

/-! ## Encoding -/

/-- 30_encoding R57, R58, R59: the decoder reads the bytes of every well-formed instruction back as that instruction,
and hands on the bytes after it. The word layout is PRESUMED [20], the byte order too [19]. -/
def Obligations.EveryEncodingDecodesBack : Prop :=
  ∀ (i : Instr) (rest : List Byte), i.WellFormed → decode (encode i ++ rest) = .ok (i, rest)

/-- 30_encoding R57: a word that decodes is the encoding of the instruction it decodes to, and that is well formed. -/
def Obligations.DecodedWordEncodesBack : Prop :=
  ∀ (w : InsnWord) (i : Instr), decodeWord w = .ok i → i.WellFormed ∧ encodeWord i = w

/-- 30_encoding R57, R62: exactly the words of the four patterns decode. -/
def Obligations.OnlyFourPatternsDecode : Prop :=
  ∀ w : InsnWord, (∃ i, decodeWord w = .ok i) ↔
    (w &&& 0xFFFFFFE0 = 0xD5381040 ∨ w &&& 0xFFFFFFE0 = 0xD5181040 ∨
     w &&& 0xFFFFFFE0 = 0xD53D1040 ∨ w &&& 0xFFFFFFE0 = 0xD51D1040)

/-- 30_encoding R56: the tuple and the direction that select each form, and no other tuple selects one. -/
def Obligations.TuplesSelectTheForms : Prop :=
  ∀ (m : SysMove) (i : Instr), selectForm m = .ok i ↔
    m.op0 = 0b11 ∧ m.crn = 0b0001 ∧ m.crm = 0b0000 ∧ m.op2 = 0b010 ∧
    ((m.op1 = 0b000 ∧ m.isRead = true ∧ i = .mrsCpacrEl1 m.rt.toNat) ∨
     (m.op1 = 0b000 ∧ m.isRead = false ∧ i = .msrCpacrEl1 m.rt.toNat) ∨
     (m.op1 = 0b101 ∧ m.isRead = true ∧ i = .mrsCpacrEl12 m.rt.toNat) ∨
     (m.op1 = 0b101 ∧ m.isRead = false ∧ i = .msrCpacrEl12 m.rt.toNat))

/-- Words of 95_test_vectors section 2.9 decode to the instructions it names, and two are refused: one with another op1
(I13), one outside the fixed bits (I15). The words' layout is PRESUMED [20], their bytes' order too [19]. -/
def Obligations.WordsOfTheSpecDecode : Prop :=
  decode [0x5F, 0x10, 0x38, 0xD5] = .ok (.mrsCpacrEl1 31, []) ∧
  decode [0x4A, 0x10, 0x18, 0xD5] = .ok (.msrCpacrEl1 10, []) ∧
  decode [0x5E, 0x10, 0x3D, 0xD5] = .ok (.mrsCpacrEl12 30, []) ∧
  decode [0x51, 0x10, 0x1D, 0xD5] = .ok (.msrCpacrEl12 17, []) ∧
  (∀ i, decodeWord 0xD53C1040 ≠ .ok i) ∧ (∀ i, decodeWord 0xD5581040 ≠ .ok i)

/-! ## The step -/

/-- On the PE's turn, a step at a pc whose bytes are an instruction is that instruction's meaning, on the state with
the turn taken off the schedule [8]. Nothing is added around `exec`. -/
def Obligations.StepRunsTheDecodedInstruction : Prop :=
  ∀ (s : State) (i : Instr), s.insnTurn → s.Fetches i → step s = exec i s.turnTaken

/-- A word placed with `withFetchWord` [28] is what the very next step runs, from every state. -/
def Obligations.PlacedWordRunsNext : Prop :=
  ∀ (s : State) (nbits w : Nat) (i : Instr), decodeTableWord nbits w = some i →
    step (s.withFetchWord nbits w) = exec i (s.withFetchWord nbits w)

/-- 30_encoding R62: a fetched word that is none of the four patterns is refused; it is not UNDEFINED and not a no-op. -/
def Obligations.OtherWordsAreRefused : Prop :=
  ∀ (s : State) (bytes : List Byte) (e : DecodeError), s.insnTurn → s.env.aarch32 = false → s.pc.toNat % 4 = 0 →
    s.mem.readBytes s.pc.toNat 4 = .ok bytes → decode bytes = .error e → step s = .refused (.undecodable e)

/-- 30_encoding R63: the four forms are AArch64-state instructions. In AArch32 state the PE's turn is refused, whatever
the bytes at the pc are (read from the rule by inference, DEDUCED [22]). -/
def Obligations.AArch32FetchIsRefused : Prop :=
  ∀ s : State, s.insnTurn → s.env.aarch32 = true → step s = .refused .aarch32State

/-! ## The four accessors: where each completes, and with what -/

/-- 41_register_access R100, R108, R113: `MRS <Xt>, CPACR_EL1` completes whenever it is ordered, reaches a storage and
a memory access does not fault: `X[t]` takes what the storage holds. `pc + 4` is the spec's decision D14 [18], the note
of `accessed` its decision D12 [14]. -/
def Obligations.MrsCpacrEl1Completes : Prop :=
  ∀ (t : Nat) (s : State) (p : Storage), s.canAccess .cpacrEL1 false p →
    exec (.mrsCpacrEl1 t) s = .next { s.accessed .cpacrEL1 false with x := setX t (s.held p) s.x }

/-- 41_register_access R101, R108, R112: `MSR CPACR_EL1, <Xt>` completes under the same conditions: the storage takes
`X[t]`. `pc + 4` and the note as for the read [18, 14]; the pending value is decision D11 [12]. -/
def Obligations.MsrCpacrEl1Completes : Prop :=
  ∀ (t : Nat) (s : State) (p : Storage), s.canAccess .cpacrEL1 true p →
    exec (.msrCpacrEl1 t) s = .next ((s.accessed .cpacrEL1 true).stored p (s.readX t))

/-- 41_register_access R102, R108, R113: `MRS <Xt>, CPACR_EL12` completes. -/
def Obligations.MrsCpacrEl12Completes : Prop :=
  ∀ (t : Nat) (s : State) (p : Storage), s.canAccess .cpacrEL12 false p →
    exec (.mrsCpacrEl12 t) s = .next { s.accessed .cpacrEL12 false with x := setX t (s.held p) s.x }

/-- 41_register_access R103, R108, R112: `MSR CPACR_EL12, <Xt>` completes. -/
def Obligations.MsrCpacrEl12Completes : Prop :=
  ∀ (t : Nat) (s : State) (p : Storage), s.canAccess .cpacrEL12 true p →
    exec (.msrCpacrEl12 t) s = .next ((s.accessed .cpacrEL12 true).stored p (s.readX t))

/-! ## The four accessors: the pseudocode, every arm -/

/-- 41_register_access R100: the tuple, and the source's pseudocode. Out of the premises: the refusal of R115, and the
optional memory fault of 20_memory R41, each stated on its own. The model's and the spec's decisions in it: `pc + 4` (10_state
R25) is D14 [18], the note of `accessed` (20_memory R48) D12 [14], the outcome of UNDEFINED (60_exceptions R121) D6 and of
SystemAccessTrap (R122) D7 [10]. -/
def Obligations.MrsCpacrEl1Pseudocode : Prop :=
  (∀ rt : BitVec 5, selectForm ⟨true, 0b11, 0b000, 0b0001, 0b0000, 0b010, rt⟩ = .ok (.mrsCpacrEl1 rt.toNat)) ∧
  ∀ (t : Nat) (s : State), ¬ s.unordered .cpacrEL1 false → s.env.nvMemFault = false →
    exec (.mrsCpacrEl1 t) s =
      let reads (v : Word) : Result := .next { s.accessed .cpacrEL1 false with x := setX t v s.x }
      match s.env.el with
      | .el0 => s.undefinedHere
      | .el1 =>
        if s.impl.haveEL3 = true ∧ s.env.sddUndefPrio = true ∧ s.env.tcpac3 = true then s.undefinedHere
        else if s.env.el2Enabled = true ∧ s.env.tcpac2 = true then s.accessTrapTo .el2
        else if s.env.el2Enabled = true ∧ s.impl.featFGT = true ∧
          (s.impl.haveEL3 = false ∨ s.env.fgtEn = true) ∧ s.env.hfgrtrCpacr = true then s.accessTrapTo .el2
        else if s.impl.haveEL3 = true ∧ s.env.tcpac3 = true then
          (if s.env.sddUndef = true then s.undefinedHere else s.accessTrapTo .el3)
        else if s.env.nvx = 0b111 then reads s.nvMem
        else reads s.cpacr
      | .el2 =>
        if s.impl.haveEL3 = true ∧ s.env.sddUndefPrio = true ∧ s.env.tcpac3 = true then s.undefinedHere
        else if s.impl.haveEL3 = true ∧ s.env.tcpac3 = true then
          (if s.env.sddUndef = true then s.undefinedHere else s.accessTrapTo .el3)
        else if s.env.hostEL2 = true then reads s.cptrEL2
        else reads s.cpacr
      | .el3 => reads s.cpacr

/-- 41_register_access R101: the tuple, and the source's pseudocode. Out of the premises: the refusal of R115, and the
optional memory fault of 20_memory R41, each stated on its own. The model's and the spec's decisions in it: `pc + 4` (10_state
R25) is D14 [18], the note of `accessed` (20_memory R48) D12 [14], the outcome of UNDEFINED (60_exceptions R121) D6 and of
SystemAccessTrap (R122) D7 [10], the pending value (20_memory R49) D11 [12], the RES0 rule (10_state R13) D3 [3]. -/
def Obligations.MsrCpacrEl1Pseudocode : Prop :=
  (∀ rt : BitVec 5, selectForm ⟨false, 0b11, 0b000, 0b0001, 0b0000, 0b010, rt⟩ = .ok (.msrCpacrEl1 rt.toNat)) ∧
  ∀ (t : Nat) (s : State), ¬ s.unordered .cpacrEL1 true → s.env.nvMemFault = false →
    exec (.msrCpacrEl1 t) s =
      let into (p : Storage) : Result := .next ((s.accessed .cpacrEL1 true).stored p (s.readX t))
      match s.env.el with
      | .el0 => s.undefinedHere
      | .el1 =>
        if s.impl.haveEL3 = true ∧ s.env.sddUndefPrio = true ∧ s.env.tcpac3 = true then s.undefinedHere
        else if s.env.el2Enabled = true ∧ s.env.tcpac2 = true then s.accessTrapTo .el2
        else if s.env.el2Enabled = true ∧ s.impl.featFGT = true ∧
          (s.impl.haveEL3 = false ∨ s.env.fgtEn = true) ∧ s.env.hfgwtrCpacr = true then s.accessTrapTo .el2
        else if s.impl.haveEL3 = true ∧ s.env.tcpac3 = true then
          (if s.env.sddUndef = true then s.undefinedHere else s.accessTrapTo .el3)
        else if s.env.nvx = 0b111 then into .nvMem
        else into .cpacr
      | .el2 =>
        if s.impl.haveEL3 = true ∧ s.env.sddUndefPrio = true ∧ s.env.tcpac3 = true then s.undefinedHere
        else if s.impl.haveEL3 = true ∧ s.env.tcpac3 = true then
          (if s.env.sddUndef = true then s.undefinedHere else s.accessTrapTo .el3)
        else if s.env.hostEL2 = true then into .cptrEL2
        else into .cpacr
      | .el3 => into .cpacr

/-- 41_register_access R102: the tuple, and the source's pseudocode. Out of the premises: the refusal of R115, and the
optional memory fault of 20_memory R41, each stated on its own. The model's and the spec's decisions in it: `pc + 4` (10_state
R25) is D14 [18], the note of `accessed` (20_memory R48) D12 [14], the outcome of UNDEFINED (60_exceptions R121) D6 and of
SystemAccessTrap (R122) D7 [10]. -/
def Obligations.MrsCpacrEl12Pseudocode : Prop :=
  (∀ rt : BitVec 5, selectForm ⟨true, 0b11, 0b101, 0b0001, 0b0000, 0b010, rt⟩ = .ok (.mrsCpacrEl12 rt.toNat)) ∧
  ∀ (t : Nat) (s : State), ¬ s.unordered .cpacrEL12 false → s.env.nvMemFault = false →
    exec (.mrsCpacrEl12 t) s =
      let reads (v : Word) : Result := .next { s.accessed .cpacrEL12 false with x := setX t v s.x }
      match s.env.el with
      | .el0 => s.undefinedHere
      | .el1 =>
        if s.env.nvx = 0b101 then reads s.nvMem
        else if s.env.nvx = 0b001 ∨ s.env.nvx = 0b011 ∨ s.env.nvx = 0b111 then s.accessTrapTo .el2
        else s.undefinedHere
      | .el2 =>
        if s.env.hostEL2 = true then
          if s.impl.haveEL3 = true ∧ s.env.sddUndefPrio = true ∧ s.env.tcpac3 = true then s.undefinedHere
          else if s.impl.haveEL3 = true ∧ s.env.tcpac3 = true then
            (if s.env.sddUndef = true then s.undefinedHere else s.accessTrapTo .el3)
          else reads s.cpacr
        else s.undefinedHere
      | .el3 => if s.env.hostEL2 = true then reads s.cpacr else s.undefinedHere

/-- 41_register_access R103: the tuple, and the source's pseudocode. Out of the premises: the refusal of R115, and the
optional memory fault of 20_memory R41, each stated on its own. The model's and the spec's decisions in it: `pc + 4` (10_state
R25) is D14 [18], the note of `accessed` (20_memory R48) D12 [14], the outcome of UNDEFINED (60_exceptions R121) D6 and of
SystemAccessTrap (R122) D7 [10], the pending value (20_memory R49) D11 [12], the RES0 rule (10_state R13) D3 [3]. -/
def Obligations.MsrCpacrEl12Pseudocode : Prop :=
  (∀ rt : BitVec 5, selectForm ⟨false, 0b11, 0b101, 0b0001, 0b0000, 0b010, rt⟩ = .ok (.msrCpacrEl12 rt.toNat)) ∧
  ∀ (t : Nat) (s : State), ¬ s.unordered .cpacrEL12 true → s.env.nvMemFault = false →
    exec (.msrCpacrEl12 t) s =
      let into (p : Storage) : Result := .next ((s.accessed .cpacrEL12 true).stored p (s.readX t))
      match s.env.el with
      | .el0 => s.undefinedHere
      | .el1 =>
        if s.env.nvx = 0b101 then into .nvMem
        else if s.env.nvx = 0b001 ∨ s.env.nvx = 0b011 ∨ s.env.nvx = 0b111 then s.accessTrapTo .el2
        else s.undefinedHere
      | .el2 =>
        if s.env.hostEL2 = true then
          if s.impl.haveEL3 = true ∧ s.env.sddUndefPrio = true ∧ s.env.tcpac3 = true then s.undefinedHere
          else if s.impl.haveEL3 = true ∧ s.env.tcpac3 = true then
            (if s.env.sddUndef = true then s.undefinedHere else s.accessTrapTo .el3)
          else into .cpacr
        else s.undefinedHere
      | .el3 => if s.env.hostEL2 = true then into .cpacr else s.undefinedHere

/-- 41_register_access R104: at EL0 every accessor is Undefined, whatever any control bit holds. -/
def Obligations.EveryAccessorIsUndefinedAtEL0 : Prop :=
  ∀ (i : Instr) (s : State), s.env.el = .el0 → exec i s = .fault (.undefined .el0 s.pc)

/-- 60_exceptions R123, R128 and 20_memory R48: everything an accessor can answer, and from which level; each record
carries the level and the pc of the instruction (R127). -/
def Obligations.EveryAnswerOfAnAccessor : Prop :=
  ∀ (i : Instr) (s : State),
    (∃ s', exec i s = .next s') ∨ exec i s = .fault (.undefined s.env.el s.pc) ∨
    (s.env.el = .el1 ∧ exec i s = .fault (.systemAccessTrap ⟨.el1, .el2, 0x18, .unspecified, s.pc⟩)) ∨
    ((s.env.el = .el1 ∨ s.env.el = .el2) ∧ s.impl.haveEL3 = true ∧
      exec i s = .fault (.systemAccessTrap ⟨s.env.el, .el3, 0x18, .unspecified, s.pc⟩)) ∨
    (s.env.el = .el1 ∧ s.env.nvMemFault = true ∧ exec i s = .fault (.nvMemFault .el1 s.pc)) ∨
    (s.env.el = .el3 ∧ s.env.effE2H = true ∧ exec i s = .refused .crossMnemonic)

/-! ## Frames -/

/-- 41_register_access R113: what both `MRS` forms leave unchanged: all but `X[t]`, the pc, and (at EL3 with Effective
E2H = 1) the note. That other accesses leave the note of 20_memory R48 alone is the model's choice [31]. -/
def Obligations.MrsFrame : Prop :=
  ∀ (t : Nat) (s s' : State), (exec (.mrsCpacrEl1 t) s = .next s' ∨ exec (.mrsCpacrEl12 t) s = .next s') →
    (∀ k, k ≠ t → s'.readX k = s.readX k) ∧ (31 ≤ t → s'.x = s.x) ∧
    s'.cpacr = s.cpacr ∧ s'.stale = s.stale ∧ s'.cptrEL2 = s.cptrEL2 ∧ s'.nvMem = s.nvMem ∧
    s'.env = s.env ∧ s'.impl = s.impl ∧ s'.schedule = s.schedule ∧ (∀ a, s'.mem.read a = s.mem.read a) ∧
    (¬ s.watched →
      s'.lastMn = s.lastMn ∧ s'.lastWasWrite = s.lastWasWrite ∧ s'.bothNames = s.bothNames)

/-- 41_register_access R108, R112: what both `MSR` forms leave unchanged: all but the one storage they reach (with its
pending set), the pc, and (at EL3 with Effective E2H = 1) the note. Neither stores to a byte of instruction memory; the cell
`NVMem[0x100]` changes only where `reaches` says that the access goes there. That accesses not at EL3 with Effective E2H = 1
leave the note of 20_memory R48 alone is the model's choice [31]. -/
def Obligations.MsrFrame : Prop :=
  ∀ (m : Mnemonic) (t : Nat) (s s' : State),
    ((m = .cpacrEL1 ∧ exec (.msrCpacrEl1 t) s = .next s') ∨ (m = .cpacrEL12 ∧ exec (.msrCpacrEl12 t) s = .next s')) →
    (∀ k, s'.readX k = s.readX k) ∧
    (¬ s.reaches m true .cpacr → s'.cpacr = s.cpacr ∧ s'.stale = s.stale) ∧
    (¬ s.reaches m true .cptrEL2 → s'.cptrEL2 = s.cptrEL2) ∧ (¬ s.reaches m true .nvMem → s'.nvMem = s.nvMem) ∧
    s'.env = s.env ∧ s'.impl = s.impl ∧ s'.schedule = s.schedule ∧ (∀ a, s'.mem.read a = s.mem.read a) ∧
    (¬ s.watched →
      s'.lastMn = s.lastMn ∧ s'.lastWasWrite = s.lastWasWrite ∧ s'.bothNames = s.bothNames)

/-- Register 31 is the zero register: the model follows decision D13 of 92_eei_decisions (10_state R23) [17]. By either
name, a write from it stores zero in the storage reached; a read into it makes every check and discards the value. -/
def Obligations.RegisterThirtyOneIsZero : Prop :=
  (∀ s : State, s.readX 31 = 0) ∧ (∀ (s : State) (v : Word), s.writeX 31 v = s) ∧
  (∀ (m : Mnemonic) (s : State) (p : Storage), s.canAccess m true p →
    exec (m.msr 31) s = .next ((s.accessed m true).stored p 0)) ∧
  (∀ (m : Mnemonic) (s : State) (p : Storage), s.canAccess m false p →
    exec (m.mrs 31) s = .next (s.accessed m false))

/-! ## The register: what is stored, what is read back -/

/-- 41_register_access R112, R113, 20_memory R49: a write through a name that reaches `CPACR_EL1`, then a read through
the same name, gives the value written, through the RES0 rule of 10_state R13 (decision D3 [3]). -/
def Obligations.WriteThenReadBack : Prop :=
  ∀ (t d : Nat) (s : State), d < 31 →
    (s.canAccess .cpacrEL1 true .cpacr → s.reaches .cpacrEL1 false .cpacr →
      ∃ s₁ s₂, exec (.msrCpacrEl1 t) s = .next s₁ ∧ exec (.mrsCpacrEl1 d) s₁ = .next s₂ ∧
        s₂.readX d = storeFilter s.impl (s.readX t)) ∧
    (s.canAccess .cpacrEL12 true .cpacr →
      ∃ s₁ s₂, exec (.msrCpacrEl12 t) s = .next s₁ ∧ exec (.mrsCpacrEl12 d) s₁ = .next s₂ ∧
        s₂.readX d = storeFilter s.impl (s.readX t))

/-- 10_state R13, R14 to R18, 41_register_access R112: every present field stores every value as written; RES0 bits
store by `Res0Mode` (decision D3 [3]). -/
def Obligations.FieldsStoreAsWritten : Prop :=
  ∀ (impl : Impl) (v : Word),
    (impl.featS1POE = true → e0poe impl.fieldPos (storeFilter impl v) = e0poe impl.fieldPos v) ∧
    (impl.traceSysreg = true → tta impl.fieldPos (storeFilter impl v) = tta impl.fieldPos v) ∧
    (impl.featSME = true → smen impl.fieldPos (storeFilter impl v) = smen impl.fieldPos v) ∧
    fpen impl.fieldPos (storeFilter impl v) = fpen impl.fieldPos v ∧
    (impl.featSVE = true → zen impl.fieldPos (storeFilter impl v) = zen impl.fieldPos v) ∧
    (impl.res0Mode = .razWi → storeFilter impl v &&& ~~~ liveMask impl = 0) ∧
    (impl.res0Mode = .stateful → storeFilter impl v = v)

/-- 10_state R13: "A RES0 bit never changes the outcome of any rule of this spec": two values that agree on the fields
present have the same check, for every class and every table of positions. Which feature provides which field is PRESUMED [2]. -/
def Obligations.ReservedBitsNeverMatter : Prop :=
  ∀ (c : TrapClass) (env : Env) (impl : Impl) (v w : Word), v &&& liveMask impl = w &&& liveMask impl →
    cpacrCheck c env impl v = cpacrCheck c env impl w

/-- 10_state R13 (decision D3 [3]): with `RAZ_WI`, in a state that keeps the invariant, a completed `MRS` of the register
itself, by either name, leaves 0 in every RES0 bit of `X[t]`. -/
def Obligations.ReservedBitsReadAsZero : Prop :=
  ∀ (m : Mnemonic) (t : Nat) (s : State), s.Inv → s.impl.res0Mode = .razWi → s.canAccess m false .cpacr →
    ∃ s', exec (m.mrs t) s = .next s' ∧ (t < 31 → s'.readX t &&& ~~~ liveMask s.impl = 0)

/-- 10_state R20: bits [31:0] of `CPACR_EL1` and of the AArch32 register `CPACR` are the same storage. A write through
`CPACR` (the event [23]) is seen in `CPACR_EL1`, bits [63:32] being kept, and a write by either AArch64 name that reaches
the register is seen in `CPACR`, in every bit of a present field; where RES0 bits store (decision D3 [3]), in every bit. -/
def Obligations.AArch32NameSharesTheStorage : Prop :=
  (∀ (s : State) (v : BitVec 32) (rest : List Turn), s.schedule = .outside (.writeA32 v) :: rest →
    ∃ s', step s = .next s' ∧
      s'.cpacr &&& liveMask s.impl = (s.cpacr.extractLsb' 32 32 ++ v : Word) &&& liveMask s.impl ∧
      (s.impl.res0Mode = .stateful →
        s'.cpacrA32 = v ∧ s'.cpacr.extractLsb' 32 32 = s.cpacr.extractLsb' 32 32)) ∧
  (∀ (m : Mnemonic) (s : State) (t : Nat), s.canAccess m true .cpacr →
    ∃ s', exec (m.msr t) s = .next s' ∧
      s'.cpacrA32 &&& (liveMask s.impl).setWidth 32 = (s.readX t).setWidth 32 &&& (liveMask s.impl).setWidth 32 ∧
      (s.impl.res0Mode = .stateful → s'.cpacrA32 = (s.readX t).setWidth 32))

/-! ## NVMem[0x100] -/

/-- 20_memory R40, 70_reset_and_hazards R159: a write by the name `CPACR_EL1` under `NVx == '111'` goes to the cell, all
64 bits, and touches neither the register nor its pending set; the name `CPACR_EL12` under `NVx == '101'` reads the
same cell. -/
def Obligations.BothNamesReachOneMemoryCell : Prop :=
  ∀ (t d : Nat) (s : State), s.canAccess .cpacrEL1 true .nvMem →
    ∃ s₁ s₂, exec (.msrCpacrEl1 t) s = .next s₁ ∧ s₁.nvMem = s.readX t ∧ s₁.cpacr = s.cpacr ∧ s₁.stale = s.stale ∧
      exec (.mrsCpacrEl12 d) { s₁ with env := { s₁.env with nvx := 0b101 } } = .next s₂ ∧
      (d < 31 → s₂.readX d = s.readX t) ∧ s₂.nvMem = s.readX t

/-- 20_memory R41 (b): where the memory access faults, the accessor on an `NVMem[0x100]` path ends with `NVMemFault`,
and has no effect. The input is the model's [15]. -/
def Obligations.MemoryFaultEndsTheAccess : Prop :=
  ∀ (t : Nat) (s : State), s.env.nvMemFault = true →
    (s.reaches .cpacrEL1 false .nvMem → exec (.mrsCpacrEl1 t) s = .fault (.nvMemFault .el1 s.pc)) ∧
    (s.reaches .cpacrEL1 true .nvMem → exec (.msrCpacrEl1 t) s = .fault (.nvMemFault .el1 s.pc)) ∧
    (s.reaches .cpacrEL12 false .nvMem → exec (.mrsCpacrEl12 t) s = .fault (.nvMemFault .el1 s.pc)) ∧
    (s.reaches .cpacrEL12 true .nvMem → exec (.msrCpacrEl12 t) s = .fault (.nvMemFault .el1 s.pc))

/-- 60_exceptions R133: `CPACR_EL1` has no memory-mapped view. No value of the register changes what a fetch finds, another
agent's write of memory (the event [15]) does not reach it, and a write that reaches it changes no byte of memory and not
the cell `NVMem[0x100]`. -/
def Obligations.RegisterHasNoMemoryView : Prop :=
  (∀ (s : State) (v : Word), fetch { s with cpacr := v } = fetch s) ∧
  (∀ (s : State) (v : Word) (rest : List Turn), s.schedule = .outside (.agentWrite v) :: rest →
    ∃ s', step s = .next s' ∧ s'.nvMem = v ∧ s'.cpacr = s.cpacr ∧ s'.stale = s.stale) ∧
  (∀ (m : Mnemonic) (t : Nat) (s : State), s.canAccess m true .cpacr →
    ∃ s', exec (m.msr t) s = .next s' ∧ s'.nvMem = s.nvMem ∧ ∀ a, s'.mem.read a = s.mem.read a)

/-! ## The trap checks -/

/-- 40_field_trap_controls R83: the two-bit enable code. -/
def Obligations.TwoBitEnableCode : Prop :=
  ∀ (f : BitVec 2) (el : EL), en2Traps f el = true ↔ (el = .el0 ∧ f ≠ 0b11) ∨ (el = .el1 ∧ f.getLsbD 0 = false)

/-- 40_field_trap_controls R70: under the host configuration no field traps anything, whatever the register holds. (The
class `MVFR_WRITE` is refused before any field is looked at, R81.) -/
def Obligations.HostConfigurationDisablesEveryField : Prop :=
  ∀ (c : TrapClass) (env : Env) (impl : Impl) (v : Word), env.hostOverride → c ≠ .mvfrWrite →
    cpacrCheck c env impl v = .noTrap

/-- 40_field_trap_controls R75: the check of `POR_EL0` accesses by E0POE. -/
def Obligations.E0poeCheck : Prop :=
  ∀ (env : Env) (impl : Impl) (v : Word),
    let traps := env.fieldsAct ∧ env.el = .el0 ∧ env.aarch32 = false ∧ impl.featS1POE = true ∧ e0poe impl.fieldPos v = false
    (traps → trapsWith env (cpacrCheck .porEL0Access env impl v) 0x18 .unspecified) ∧
    (¬ traps → cpacrCheck .porEL0Access env impl v = .noTrap)

/-- 40_field_trap_controls R76: the checks of trace register accesses by TTA, with the EC of each kind. -/
def Obligations.TtaCheck : Prop :=
  ∀ (env : Env) (impl : Impl) (v : Word),
    let traps := env.fieldsAct ∧ impl.traceSysreg = true ∧ tta impl.fieldPos v = true
    (traps → trapsWith env (cpacrCheck .traceA64 env impl v) 0x18 .unspecified ∧
      trapsWith env (cpacrCheck .traceA32MrcMcr env impl v) 0x05 .unspecified ∧
      trapsWith env (cpacrCheck .traceA32MrrcMcrr env impl v) 0x0C .unspecified) ∧
    (¬ traps → cpacrCheck .traceA64 env impl v = .noTrap ∧ cpacrCheck .traceA32MrcMcr env impl v = .noTrap ∧
      cpacrCheck .traceA32MrrcMcrr env impl v = .noTrap)

/-- 40_field_trap_controls R77: the check by SMEN of SME instructions, of accesses to `SVCR` and `SMCR_EL1`, and of SVE
instructions without `FEAT_SVE` or in Streaming SVE mode. -/
def Obligations.SmenCheck : Prop :=
  ∀ (env : Env) (impl : Impl) (v : Word),
    let traps := env.fieldsAct ∧ impl.featSME = true ∧ fieldTraps (smen impl.fieldPos v) env.el
    (traps → trapsWith env (cpacrCheck .smeInsn env impl v) 0x1D (.value 0) ∧
      trapsWith env (cpacrCheck .svcrAccess env impl v) 0x1D (.value 0) ∧
      trapsWith env (cpacrCheck .smcrEL1Access env impl v) 0x1D (.value 0) ∧
      (impl.featSVE = false ∨ env.streamingSVE = true →
        trapsWith env (cpacrCheck .sveInsn env impl v) 0x1D (.value 0))) ∧
    (¬ traps → cpacrCheck .svcrAccess env impl v = .noTrap ∧ cpacrCheck .smcrEL1Access env impl v = .noTrap ∧
      (∀ target ec, cpacrCheck .smeInsn env impl v ≠ .trap target ec (.value 0)) ∧
      (∀ target ec, cpacrCheck .sveInsn env impl v ≠ .trap target ec (.value 0))) ∧
    (impl.featSVE = true ∧ env.streamingSVE = false →
      ∀ target ec, cpacrCheck .sveInsn env impl v ≠ .trap target ec (.value 0))

/-- 40_field_trap_controls R78: the check of Advanced SIMD and floating-point register accesses by FPEN: EC 0x07 to EL1,
EC 0x00 to EL2. -/
def Obligations.FpenSimdCheck : Prop :=
  ∀ (env : Env) (impl : Impl) (v : Word),
    (env.fieldsAct ∧ fieldTraps (fpen impl.fieldPos v) env.el →
      (env.routesToEL2 → cpacrCheck .fpsimdAccess env impl v = .trap .el2 0x00 .unspecified) ∧
      (¬ env.routesToEL2 → cpacrCheck .fpsimdAccess env impl v = .trap .el1 0x07 .unspecified)) ∧
    (¬ (env.fieldsAct ∧ fieldTraps (fpen impl.fieldPos v) env.el) → cpacrCheck .fpsimdAccess env impl v = .noTrap)

/-- 40_field_trap_controls R80: the check by ZEN of `ZCR_EL1` accesses, in any mode, and of SVE instructions outside
Streaming SVE mode; no other SVE trap has EC 0x19 (the EC that FPEN reports to EL2 is a parameter [25]). -/
def Obligations.ZenCheck : Prop :=
  ∀ (env : Env) (impl : Impl) (v : Word),
    let traps := env.fieldsAct ∧ impl.featSVE = true ∧ fieldTraps (zen impl.fieldPos v) env.el
    (traps → trapsWith env (cpacrCheck .zcrEL1Access env impl v) 0x19 .unspecified ∧
      (env.streamingSVE = false → trapsWith env (cpacrCheck .sveInsn env impl v) 0x19 .unspecified)) ∧
    (¬ traps → cpacrCheck .zcrEL1Access env impl v = .noTrap) ∧
    (¬ (traps ∧ env.streamingSVE = false) → impl.fpenSveSmeEL2EC ≠ 0x19 →
      ∀ target iss, cpacrCheck .sveInsn env impl v ≠ .trap target 0x19 iss)

/-- 40_field_trap_controls R79, 90_conflicts C1: FPEN on SME and SVE instructions that SMEN or ZEN did not trap: EC 0x07
to EL1, the parameter's EC to EL2 (the spec's decision D17 [25]). The premises say that the first field does not trap. -/
def Obligations.FpenVectorCheck : Prop :=
  ∀ (c : TrapClass) (env : Env) (impl : Impl) (v : Word),
    (c = .smeInsn ∧ ¬ (impl.featSME = true ∧ fieldTraps (smen impl.fieldPos v) env.el)) ∨
    (c = .sveInsn ∧ (impl.featSVE = false ∨ env.streamingSVE = true) ∧
      ¬ (impl.featSME = true ∧ fieldTraps (smen impl.fieldPos v) env.el)) ∨
    (c = .sveInsn ∧ impl.featSVE = true ∧ env.streamingSVE = false ∧ ¬ fieldTraps (zen impl.fieldPos v) env.el) →
    (env.fieldsAct ∧ fieldTraps (fpen impl.fieldPos v) env.el →
      (env.routesToEL2 → cpacrCheck c env impl v = .trap .el2 impl.fpenSveSmeEL2EC .unspecified) ∧
      (¬ env.routesToEL2 → cpacrCheck c env impl v = .trap .el1 0x07 .unspecified)) ∧
    (¬ (env.fieldsAct ∧ fieldTraps (fpen impl.fieldPos v) env.el) → cpacrCheck c env impl v = .noTrap)

/-- 40_field_trap_controls R82: where SMEN and FPEN would both trap, SMEN's trap is reported; where ZEN and FPEN would,
ZEN's; SMEN and ZEN never both check one SVE instruction (where one of them applies, the other's value is not looked at);
and no field but E0POE checks `POR_EL0` accesses, none but TTA trace accesses. -/
def Obligations.SmenAndZenPrecedeFpen : Prop :=
  ∀ (env : Env) (impl : Impl) (v : Word),
    (env.fieldsAct → fieldTraps (fpen impl.fieldPos v) env.el →
      (impl.featSME = true ∧ fieldTraps (smen impl.fieldPos v) env.el →
        trapsWith env (cpacrCheck .smeInsn env impl v) 0x1D (.value 0) ∧
        (impl.featSVE = false ∨ env.streamingSVE = true →
          trapsWith env (cpacrCheck .sveInsn env impl v) 0x1D (.value 0))) ∧
      (impl.featSVE = true ∧ env.streamingSVE = false ∧ fieldTraps (zen impl.fieldPos v) env.el →
        trapsWith env (cpacrCheck .sveInsn env impl v) 0x19 .unspecified)) ∧
    (∀ w : Word, fpen impl.fieldPos w = fpen impl.fieldPos v → (impl.featSVE = false ∨ env.streamingSVE = true → smen impl.fieldPos w = smen impl.fieldPos v) →
      (impl.featSVE = true ∧ env.streamingSVE = false → zen impl.fieldPos w = zen impl.fieldPos v) →
      cpacrCheck .sveInsn env impl w = cpacrCheck .sveInsn env impl v) ∧
    (∀ w : Word, e0poe impl.fieldPos w = e0poe impl.fieldPos v → cpacrCheck .porEL0Access env impl w = cpacrCheck .porEL0Access env impl v) ∧
    (∀ w : Word, tta impl.fieldPos w = tta impl.fieldPos v → ∀ c : TrapClass, c = .traceA64 ∨ c = .traceA32MrcMcr ∨ c = .traceA32MrrcMcrr →
      cpacrCheck c env impl w = cpacrCheck c env impl v)

/-- 40_field_trap_controls R71, R73, R86, 60_exceptions R120: a trap by a field is taken from EL0 or EL1, outside the
host configuration, to EL2 exactly when routing says so and to EL1 otherwise; an ISS that is given is zero and belongs
to EC 0x1D. -/
def Obligations.FieldTrapsStayInTheirPlace : Prop :=
  ∀ (c : TrapClass) (env : Env) (impl : Impl) (v : Word) (target : EL) (ec : BitVec 6) (iss : Iss),
    cpacrCheck c env impl v = .trap target ec iss →
    env.fieldsAct ∧ (env.routesToEL2 → target = .el2) ∧ (¬ env.routesToEL2 → target = .el1) ∧
    (iss = .unspecified ∨ (iss = .value 0 ∧ ec = 0x1D))

/-- 40_field_trap_controls R84: the model's check is the spec's function, arm by arm on the bits of the register, at the
positions of the parameter `FieldPos` (00_scope R6), whatever they are. -/
def Obligations.CheckRefinesTheSpecFunction : Prop :=
  ∀ (c : TrapClass) (env : Env) (impl : Impl) (v : Word), cpacrCheck c env impl v = specCpacrCheck c env impl v

/-- 70_reset_and_hazards R154, R160: a value with E0POE 1, TTA 0 and the two-bit fields `0b11` traps no class at any level,
and at the positions of 10_state R11 (PRESUMED [1]) 0x23330000 is one. With every field present (PRESUMED [2]), zero traps
floating point, SVE, SME, `SVCR`, `SMCR_EL1` and `ZCR_EL1` accesses at EL0 and EL1, and `POR_EL0` accesses at EL0, each to
where its field sends it (program P5); it leaves trace accesses of all three kinds alone. -/
def Obligations.UsefulValuesDoWhatTheyAreFor : Prop :=
  (∀ (c : TrapClass) (env : Env) (impl : Impl) (v : Word), c ≠ .mvfrWrite →
    e0poe impl.fieldPos v = true ∧ tta impl.fieldPos v = false ∧ smen impl.fieldPos v = 0b11 ∧
      fpen impl.fieldPos v = 0b11 ∧ zen impl.fieldPos v = 0b11 ∨
    impl.fieldPos = Config.fieldPos ∧ v = 0x23330000 → cpacrCheck c env impl v = .noTrap) ∧
  (∀ (env : Env) (impl : Impl), env.fieldsAct → impl.featSVE = true → impl.featSME = true → impl.featS1POE = true →
    (env.routesToEL2 → cpacrCheck .fpsimdAccess env impl 0 = .trap .el2 0x00 .unspecified) ∧
    (¬ env.routesToEL2 → cpacrCheck .fpsimdAccess env impl 0 = .trap .el1 0x07 .unspecified) ∧
    (env.streamingSVE = false → trapsWith env (cpacrCheck .sveInsn env impl 0) 0x19 .unspecified) ∧
    (env.streamingSVE = true → trapsWith env (cpacrCheck .sveInsn env impl 0) 0x1D (.value 0)) ∧
    trapsWith env (cpacrCheck .smeInsn env impl 0) 0x1D (.value 0) ∧
    trapsWith env (cpacrCheck .svcrAccess env impl 0) 0x1D (.value 0) ∧
    trapsWith env (cpacrCheck .smcrEL1Access env impl 0) 0x1D (.value 0) ∧
    trapsWith env (cpacrCheck .zcrEL1Access env impl 0) 0x19 .unspecified ∧
    (env.el = .el0 → env.aarch32 = false → trapsWith env (cpacrCheck .porEL0Access env impl 0) 0x18 .unspecified)) ∧
  (∀ (c : TrapClass) (env : Env) (impl : Impl), c = .traceA64 ∨ c = .traceA32MrcMcr ∨ c = .traceA32MrrcMcrr →
    cpacrCheck c env impl 0 = .noTrap)

/-- 40_field_trap_controls R74, R84, R81, 60_exceptions R120, R127: an instruction of a trapped class, as the event of
the schedule [8]: a trap ends the step with its record; without a trap nothing changes but the schedule; the class
`MVFR_WRITE` is refused. -/
def Obligations.CheckedInstructionOutcome : Prop :=
  ∀ (s : State) (c : TrapClass) (pick : Nat) (rest : List Turn), s.schedule = .outside (.check c pick) :: rest →
    (∀ target ec iss, cpacrCheck c s.env s.impl (s.checkValue pick) = .trap target ec iss →
      step s = .fault (.trap ⟨s.env.el, target, ec, iss, s.pc⟩)) ∧
    (cpacrCheck c s.env s.impl (s.checkValue pick) = .noTrap → step s = .next { s with schedule := rest }) ∧
    (c = .mvfrWrite → step s = .refused .mvfrWrite)

/-! ## Ordering and synchronisation -/

/-- 20_memory R49, 40_field_trap_controls R85 (decision D11 [12]): the values a check can read are exactly those of
`{CPACR_EL1} ∪ stale`. -/
def Obligations.CheckReadsAnyPendingValue : Prop :=
  ∀ (s : State) (v : Word), (∃ pick, s.checkValue pick = v) ↔ v = s.cpacr ∨ v ∈ s.stale

/-- 20_memory R49, 70_reset_and_hazards R156 (decision D11 [12]): after an `MSR` by either name that reaches the register,
without synchronisation, a check may read the old value, the new one, or any that was pending before, and nothing else. -/
def Obligations.UnsynchronisedWriteMayOrMayNotGovern : Prop :=
  ∀ (m : Mnemonic) (t : Nat) (s : State), s.canAccess m true .cpacr →
    ∃ s', exec (m.msr t) s = .next s' ∧
      ∀ v, (∃ pick, s'.checkValue pick = v) ↔ v = storeFilter s.impl (s.readX t) ∨ v = s.cpacr ∨ v ∈ s.stale

/-- 70_reset_and_hazards R153, 20_memory R49, R50 (decision D11 [12, 13]): two steps, an `MSR` by either name that reaches
the register and then a `ContextSync`, and every later check reads the value written. -/
def Obligations.SynchronisedWriteGoverns : Prop :=
  ∀ (m : Mnemonic) (t : Nat) (s : State) (rest : List Turn),
    s.schedule = .instruction :: .outside .contextSync :: rest → s.Fetches (m.msr t) → s.canAccess m true .cpacr →
    ∃ s', Host.Core.run core 2 s = .next s' ∧ s'.schedule = rest ∧ s'.stale = [] ∧
      s'.cpacr = storeFilter s.impl (s.readX t) ∧ ∀ pick, s'.checkValue pick = storeFilter s.impl (s.readX t)

/-- 20_memory R50 (decision D11): `ContextSync` empties the pending set and the note of 20_memory R48, and has no other
effect. That the whole note goes, not `lastMn` alone, is the model's choice [13]. -/
def Obligations.ContextSyncHasTwoEffects : Prop :=
  ∀ (s : State) (rest : List Turn), s.schedule = .outside .contextSync :: rest →
    step s = .next { s with schedule := rest, stale := [], lastMn := none, lastWasWrite := false, bothNames := false }

/-- 20_memory R47, R48, 41_register_access R115, 70_reset_and_hazards R157 (decision D12 [14]): an accessor is refused exactly
when the access is unordered, and before anything else it could answer. -/
def Obligations.RefusedExactlyWhenUnordered : Prop :=
  ∀ (t : Nat) (s : State),
    (exec (.mrsCpacrEl1 t) s = .refused .crossMnemonic ↔ s.unordered .cpacrEL1 false) ∧
    (exec (.msrCpacrEl1 t) s = .refused .crossMnemonic ↔ s.unordered .cpacrEL1 true) ∧
    (exec (.mrsCpacrEl12 t) s = .refused .crossMnemonic ↔ s.unordered .cpacrEL12 false) ∧
    (exec (.msrCpacrEl12 t) s = .refused .crossMnemonic ↔ s.unordered .cpacrEL12 true)

/-- 20_memory R47, R48, 70_reset_and_hazards R157 (decision D12 [14]): at EL3 with Effective E2H = 1, a write through one
name and then any access through the other is refused; with a `ContextSync` between them neither access is. -/
def Obligations.WriteThenOtherNameIsRefused : Prop :=
  ∀ (m : Mnemonic) (t d : Nat) (s s₁ : State), s.watched → exec (m.msr t) s = .next s₁ →
    exec (m.other.mrs d) s₁ = .refused .crossMnemonic ∧ exec (m.other.msr d) s₁ = .refused .crossMnemonic ∧
    exec (m.other.mrs d) s₁.contextSync ≠ .refused .crossMnemonic ∧
    exec (m.other.msr d) s₁.contextSync ≠ .refused .crossMnemonic

/-- 20_memory R47, 70_reset_and_hazards R157 (decision D12 [14]): at EL3 with Effective E2H = 1, after reads through both
names a write through either is refused, since it is unordered against the read through the other; with a `ContextSync`
before it, it is not. -/
def Obligations.WriteAfterReadsByBothNamesIsRefused : Prop :=
  ∀ (m w : Mnemonic) (t d k : Nat) (s s₁ s₂ : State), s.watched → exec (m.mrs t) s = .next s₁ →
    exec (m.other.mrs d) s₁ = .next s₂ →
    exec (w.msr k) s₂ = .refused .crossMnemonic ∧ exec (w.msr k) s₂.contextSync ≠ .refused .crossMnemonic

/-- 20_memory R48 (decision D12 [14]): at EL3 two reads commute: in either order, a read through one name and a read through
the other both complete, with the same value, as long as no write is noted. -/
def Obligations.TwoReadsCommuteAtEL3 : Prop :=
  ∀ (m : Mnemonic) (t d : Nat) (s : State), s.env.el = .el3 → s.env.hostEL2 = true → s.lastWasWrite = false →
    t < 31 → d < 31 → t ≠ d →
    ∃ s₁ s₂, exec (m.mrs t) s = .next s₁ ∧ exec (m.other.mrs d) s₁ = .next s₂ ∧
      s₂.readX t = s.cpacr ∧ s₂.readX d = s.cpacr

/-! ## The whole machine -/

/-- Every step that answers a next state keeps the invariant: canonical memory and pending set, the RES0 rule of 10_state
R13 on the register and every pending value, and the coherence of the note of 20_memory R48 [14]. -/
def Obligations.EveryStepKeepsTheInvariant : Prop :=
  ∀ s s' : State, s.Inv → step s = .next s' → s'.Inv

/-- The invariant holds right after reset. -/
def Obligations.ResetHasTheInvariant : Prop := State.reset.Inv

/-- 10_state R36, 70_reset_and_hazards R151: after reset no value is pending and no access is noted; the PE is at the
highest implemented level (general knowledge G6 of the spec, PRESUMED [5]). -/
def Obligations.ResetLeavesNothingPending : Prop :=
  State.reset.stale = [] ∧ State.reset.lastMn = none ∧ State.reset.bothNames = false ∧ State.reset.schedule = [] ∧
  State.reset.env.el = highestEL State.reset.impl ∧ (∀ a, State.reset.mem.read a = none)

/-- 10_state R35, R36, 70_reset_and_hazards R150 (decision D4 [4, 30]): the reset event. Whatever the draw, it completes,
nothing is pending, no access is noted, and every cell holds what was drawn for it, at the highest implemented level (general
knowledge G6 of the spec, PRESUMED [5]); and for a table of positions that fits the source's diagram, every combination of
values of the fields present is the result of some draw for the register. -/
def Obligations.ResetDrawsEveryField : Prop :=
  (∀ (s : State) (rest : List Turn) (d : ResetDraw), s.schedule = .outside (.reset d) :: rest →
    ∃ s', step s = .next s' ∧ s'.stale = [] ∧ s'.lastMn = none ∧ s'.lastWasWrite = false ∧ s'.bothNames = false ∧
      s'.schedule = rest ∧ s'.cpacr = storeFilter s.impl d.cpacr ∧ s'.cptrEL2 = d.cptrEL2 ∧ s'.nvMem = d.nvMem ∧
      s'.x = d.x ∧ s'.pc = d.pc ∧ s'.env = { d.env with el := highestEL s.impl }) ∧
  (∀ (impl : Impl) (a b : Bool) (x y z : BitVec 2), fitsDiagram impl.fieldPos → ∃ c : Word,
    (impl.featS1POE = true → e0poe impl.fieldPos (storeFilter impl c) = a) ∧
    (impl.traceSysreg = true → tta impl.fieldPos (storeFilter impl c) = b) ∧
    (impl.featSME = true → smen impl.fieldPos (storeFilter impl c) = x) ∧
    fpen impl.fieldPos (storeFilter impl c) = y ∧
    (impl.featSVE = true → zen impl.fieldPos (storeFilter impl c) = z))

/-- 10_state R19: the writers of `CPACR_EL1` are the two `MSR` forms where they reach it, the same storage's AArch32 name
(R20, the model's event [23]), and reset. No trap check, no read, no synchronisation changes it. -/
def Obligations.OnlyItsWritersChangeTheRegister : Prop :=
  ∀ s s' : State, step s = .next s' → s'.cpacr ≠ s.cpacr →
    (s.insnTurn ∧ ∃ t, fetch s.turnTaken = .instr (.msrCpacrEl1 t) ∧ s.reaches .cpacrEL1 true .cpacr) ∨
    (s.insnTurn ∧ ∃ t, fetch s.turnTaken = .instr (.msrCpacrEl12 t) ∧ s.reaches .cpacrEL12 true .cpacr) ∨
    (∃ v rest, s.schedule = .outside (.writeA32 v) :: rest) ∨ (∃ d rest, s.schedule = .outside (.reset d) :: rest)

/-- 10_state R24, R25, R27: no instruction changes the Exception level or any other input, and every one that completes
advances the pc by 4 (the spec's decision D14 [18]). -/
def Obligations.InstructionsKeepLevelAndInputs : Prop :=
  ∀ s s' : State, s.insnTurn → step s = .next s' → s'.env = s.env ∧ s'.pc = s.pc + 4

/-- 00_scope R6: the static parameters are fixed. 20_memory R53: no rule of the spec writes instruction memory. That the
model's other steps leave it alone too is the model's choice: a reset keeps the program [30], other instructions and other
agents do not write code [29, 15]. -/
def Obligations.NoStepChangesParametersOrCode : Prop :=
  ∀ s s' : State, step s = .next s' → s'.impl = s.impl ∧ ∀ a, s'.mem.read a = s.mem.read a

/-- 41_register_access R106's remark that `SDDUndefPrio` "does not change the result at EL2". Expected to FAIL: with
`TCPAC3 = 1` and `SDDUndef` false, R100's own pseudocode and the spec's vector A37 make it change Undefined into a trap
to EL3, the inputs being independent (R114). -/
def Obligations.DebugPriorityNeverMattersAtEL2 : Prop :=
  ∀ (impl : Impl) (env : Env) (b hfg : Bool), env.el = .el2 →
    routeCpacrEL1 impl { env with sddUndefPrio := b } hfg = routeCpacrEL1 impl env hfg
end

