-- ==== Sys2Proof/Laws/State.lean ====
section
/-! SUPPORT. For each update of State, one lemma per field, true by rfl. -/

namespace Sys2Proof.Machine

variable (s : State)

/-! advancePC -/
@[simp] theorem State.advancePC_impl : (s.advancePC).impl = s.impl := rfl
@[simp] theorem State.advancePC_env : (s.advancePC).env = s.env := rfl
@[simp] theorem State.advancePC_pc : (s.advancePC).pc = s.pc + 4 := rfl
@[simp] theorem State.advancePC_x : (s.advancePC).x = s.x := rfl
@[simp] theorem State.advancePC_cpacr : (s.advancePC).cpacr = s.cpacr := rfl
@[simp] theorem State.advancePC_stale : (s.advancePC).stale = s.stale := rfl
@[simp] theorem State.advancePC_lastMn : (s.advancePC).lastMn = s.lastMn := rfl
@[simp] theorem State.advancePC_lastWasWrite : (s.advancePC).lastWasWrite = s.lastWasWrite := rfl
@[simp] theorem State.advancePC_bothNames : (s.advancePC).bothNames = s.bothNames := rfl
@[simp] theorem State.advancePC_cptrEL2 : (s.advancePC).cptrEL2 = s.cptrEL2 := rfl
@[simp] theorem State.advancePC_nvMem : (s.advancePC).nvMem = s.nvMem := rfl
@[simp] theorem State.advancePC_mem : (s.advancePC).mem = s.mem := rfl
@[simp] theorem State.advancePC_schedule : (s.advancePC).schedule = s.schedule := rfl

/-! writeX -/
@[simp] theorem State.writeX_impl (t : Nat) (v : Word) : (s.writeX t v).impl = s.impl := rfl
@[simp] theorem State.writeX_env (t : Nat) (v : Word) : (s.writeX t v).env = s.env := rfl
@[simp] theorem State.writeX_pc (t : Nat) (v : Word) : (s.writeX t v).pc = s.pc := rfl
@[simp] theorem State.writeX_x (t : Nat) (v : Word) : (s.writeX t v).x = setX t v s.x := rfl
@[simp] theorem State.writeX_cpacr (t : Nat) (v : Word) : (s.writeX t v).cpacr = s.cpacr := rfl
@[simp] theorem State.writeX_stale (t : Nat) (v : Word) : (s.writeX t v).stale = s.stale := rfl
@[simp] theorem State.writeX_lastMn (t : Nat) (v : Word) : (s.writeX t v).lastMn = s.lastMn := rfl
@[simp] theorem State.writeX_lastWasWrite (t : Nat) (v : Word) : (s.writeX t v).lastWasWrite = s.lastWasWrite := rfl
@[simp] theorem State.writeX_bothNames (t : Nat) (v : Word) : (s.writeX t v).bothNames = s.bothNames := rfl
@[simp] theorem State.writeX_cptrEL2 (t : Nat) (v : Word) : (s.writeX t v).cptrEL2 = s.cptrEL2 := rfl
@[simp] theorem State.writeX_nvMem (t : Nat) (v : Word) : (s.writeX t v).nvMem = s.nvMem := rfl
@[simp] theorem State.writeX_mem (t : Nat) (v : Word) : (s.writeX t v).mem = s.mem := rfl
@[simp] theorem State.writeX_schedule (t : Nat) (v : Word) : (s.writeX t v).schedule = s.schedule := rfl

/-! writeCpacr -/
@[simp] theorem State.writeCpacr_impl (v : Word) : (s.writeCpacr v).impl = s.impl := rfl
@[simp] theorem State.writeCpacr_env (v : Word) : (s.writeCpacr v).env = s.env := rfl
@[simp] theorem State.writeCpacr_pc (v : Word) : (s.writeCpacr v).pc = s.pc := rfl
@[simp] theorem State.writeCpacr_x (v : Word) : (s.writeCpacr v).x = s.x := rfl
@[simp] theorem State.writeCpacr_cpacr (v : Word) : (s.writeCpacr v).cpacr = storeFilter s.impl v := rfl
@[simp] theorem State.writeCpacr_stale (v : Word) : (s.writeCpacr v).stale = insertStale s.cpacr s.stale := rfl
@[simp] theorem State.writeCpacr_lastMn (v : Word) : (s.writeCpacr v).lastMn = s.lastMn := rfl
@[simp] theorem State.writeCpacr_lastWasWrite (v : Word) : (s.writeCpacr v).lastWasWrite = s.lastWasWrite := rfl
@[simp] theorem State.writeCpacr_bothNames (v : Word) : (s.writeCpacr v).bothNames = s.bothNames := rfl
@[simp] theorem State.writeCpacr_cptrEL2 (v : Word) : (s.writeCpacr v).cptrEL2 = s.cptrEL2 := rfl
@[simp] theorem State.writeCpacr_nvMem (v : Word) : (s.writeCpacr v).nvMem = s.nvMem := rfl
@[simp] theorem State.writeCpacr_mem (v : Word) : (s.writeCpacr v).mem = s.mem := rfl
@[simp] theorem State.writeCpacr_schedule (v : Word) : (s.writeCpacr v).schedule = s.schedule := rfl

/-! writeCptrEL2 -/
@[simp] theorem State.writeCptrEL2_impl (v : Word) : (s.writeCptrEL2 v).impl = s.impl := rfl
@[simp] theorem State.writeCptrEL2_env (v : Word) : (s.writeCptrEL2 v).env = s.env := rfl
@[simp] theorem State.writeCptrEL2_pc (v : Word) : (s.writeCptrEL2 v).pc = s.pc := rfl
@[simp] theorem State.writeCptrEL2_x (v : Word) : (s.writeCptrEL2 v).x = s.x := rfl
@[simp] theorem State.writeCptrEL2_cpacr (v : Word) : (s.writeCptrEL2 v).cpacr = s.cpacr := rfl
@[simp] theorem State.writeCptrEL2_stale (v : Word) : (s.writeCptrEL2 v).stale = s.stale := rfl
@[simp] theorem State.writeCptrEL2_lastMn (v : Word) : (s.writeCptrEL2 v).lastMn = s.lastMn := rfl
@[simp] theorem State.writeCptrEL2_lastWasWrite (v : Word) : (s.writeCptrEL2 v).lastWasWrite = s.lastWasWrite := rfl
@[simp] theorem State.writeCptrEL2_bothNames (v : Word) : (s.writeCptrEL2 v).bothNames = s.bothNames := rfl
@[simp] theorem State.writeCptrEL2_cptrEL2 (v : Word) : (s.writeCptrEL2 v).cptrEL2 = v := rfl
@[simp] theorem State.writeCptrEL2_nvMem (v : Word) : (s.writeCptrEL2 v).nvMem = s.nvMem := rfl
@[simp] theorem State.writeCptrEL2_mem (v : Word) : (s.writeCptrEL2 v).mem = s.mem := rfl
@[simp] theorem State.writeCptrEL2_schedule (v : Word) : (s.writeCptrEL2 v).schedule = s.schedule := rfl

/-! writeNvMem -/
@[simp] theorem State.writeNvMem_impl (v : Word) : (s.writeNvMem v).impl = s.impl := rfl
@[simp] theorem State.writeNvMem_env (v : Word) : (s.writeNvMem v).env = s.env := rfl
@[simp] theorem State.writeNvMem_pc (v : Word) : (s.writeNvMem v).pc = s.pc := rfl
@[simp] theorem State.writeNvMem_x (v : Word) : (s.writeNvMem v).x = s.x := rfl
@[simp] theorem State.writeNvMem_cpacr (v : Word) : (s.writeNvMem v).cpacr = s.cpacr := rfl
@[simp] theorem State.writeNvMem_stale (v : Word) : (s.writeNvMem v).stale = s.stale := rfl
@[simp] theorem State.writeNvMem_lastMn (v : Word) : (s.writeNvMem v).lastMn = s.lastMn := rfl
@[simp] theorem State.writeNvMem_lastWasWrite (v : Word) : (s.writeNvMem v).lastWasWrite = s.lastWasWrite := rfl
@[simp] theorem State.writeNvMem_bothNames (v : Word) : (s.writeNvMem v).bothNames = s.bothNames := rfl
@[simp] theorem State.writeNvMem_cptrEL2 (v : Word) : (s.writeNvMem v).cptrEL2 = s.cptrEL2 := rfl
@[simp] theorem State.writeNvMem_nvMem (v : Word) : (s.writeNvMem v).nvMem = v := rfl
@[simp] theorem State.writeNvMem_mem (v : Word) : (s.writeNvMem v).mem = s.mem := rfl
@[simp] theorem State.writeNvMem_schedule (v : Word) : (s.writeNvMem v).schedule = s.schedule := rfl

/-! contextSync -/
@[simp] theorem State.contextSync_impl : (s.contextSync).impl = s.impl := rfl
@[simp] theorem State.contextSync_env : (s.contextSync).env = s.env := rfl
@[simp] theorem State.contextSync_pc : (s.contextSync).pc = s.pc := rfl
@[simp] theorem State.contextSync_x : (s.contextSync).x = s.x := rfl
@[simp] theorem State.contextSync_cpacr : (s.contextSync).cpacr = s.cpacr := rfl
@[simp] theorem State.contextSync_stale : (s.contextSync).stale = [] := rfl
@[simp] theorem State.contextSync_lastMn : (s.contextSync).lastMn = none := rfl
@[simp] theorem State.contextSync_lastWasWrite : (s.contextSync).lastWasWrite = false := rfl
@[simp] theorem State.contextSync_bothNames : (s.contextSync).bothNames = false := rfl
@[simp] theorem State.contextSync_cptrEL2 : (s.contextSync).cptrEL2 = s.cptrEL2 := rfl
@[simp] theorem State.contextSync_nvMem : (s.contextSync).nvMem = s.nvMem := rfl
@[simp] theorem State.contextSync_mem : (s.contextSync).mem = s.mem := rfl
@[simp] theorem State.contextSync_schedule : (s.contextSync).schedule = s.schedule := rfl

/-! noteAccess -/
@[simp] theorem State.noteAccess_impl (m : Mnemonic) (w : Bool) : (s.noteAccess m w).impl = s.impl := rfl
@[simp] theorem State.noteAccess_env (m : Mnemonic) (w : Bool) : (s.noteAccess m w).env = s.env := rfl
@[simp] theorem State.noteAccess_pc (m : Mnemonic) (w : Bool) : (s.noteAccess m w).pc = s.pc := rfl
@[simp] theorem State.noteAccess_x (m : Mnemonic) (w : Bool) : (s.noteAccess m w).x = s.x := rfl
@[simp] theorem State.noteAccess_cpacr (m : Mnemonic) (w : Bool) : (s.noteAccess m w).cpacr = s.cpacr := rfl
@[simp] theorem State.noteAccess_stale (m : Mnemonic) (w : Bool) : (s.noteAccess m w).stale = s.stale := rfl
@[simp] theorem State.noteAccess_lastMn (m : Mnemonic) (w : Bool) : (s.noteAccess m w).lastMn = if s.orderWatched then some m else s.lastMn := rfl
@[simp] theorem State.noteAccess_lastWasWrite (m : Mnemonic) (w : Bool) : (s.noteAccess m w).lastWasWrite = if s.orderWatched then w || (s.lastMn == some m && s.lastWasWrite) else s.lastWasWrite := rfl
@[simp] theorem State.noteAccess_bothNames (m : Mnemonic) (w : Bool) : (s.noteAccess m w).bothNames = if s.orderWatched then s.bothNames || s.lastMn == some m.other else s.bothNames := rfl
@[simp] theorem State.noteAccess_cptrEL2 (m : Mnemonic) (w : Bool) : (s.noteAccess m w).cptrEL2 = s.cptrEL2 := rfl
@[simp] theorem State.noteAccess_nvMem (m : Mnemonic) (w : Bool) : (s.noteAccess m w).nvMem = s.nvMem := rfl
@[simp] theorem State.noteAccess_mem (m : Mnemonic) (w : Bool) : (s.noteAccess m w).mem = s.mem := rfl
@[simp] theorem State.noteAccess_schedule (m : Mnemonic) (w : Bool) : (s.noteAccess m w).schedule = s.schedule := rfl

/-! writeCpacrA32 -/
@[simp] theorem State.writeCpacrA32_impl (v : BitVec 32) : (s.writeCpacrA32 v).impl = s.impl := rfl
@[simp] theorem State.writeCpacrA32_env (v : BitVec 32) : (s.writeCpacrA32 v).env = s.env := rfl
@[simp] theorem State.writeCpacrA32_pc (v : BitVec 32) : (s.writeCpacrA32 v).pc = s.pc := rfl
@[simp] theorem State.writeCpacrA32_x (v : BitVec 32) : (s.writeCpacrA32 v).x = s.x := rfl
@[simp] theorem State.writeCpacrA32_cpacr (v : BitVec 32) : (s.writeCpacrA32 v).cpacr = storeFilter s.impl (s.cpacr.extractLsb' 32 32 ++ v) := rfl
@[simp] theorem State.writeCpacrA32_stale (v : BitVec 32) : (s.writeCpacrA32 v).stale = insertStale s.cpacr s.stale := rfl
@[simp] theorem State.writeCpacrA32_lastMn (v : BitVec 32) : (s.writeCpacrA32 v).lastMn = s.lastMn := rfl
@[simp] theorem State.writeCpacrA32_lastWasWrite (v : BitVec 32) : (s.writeCpacrA32 v).lastWasWrite = s.lastWasWrite := rfl
@[simp] theorem State.writeCpacrA32_bothNames (v : BitVec 32) : (s.writeCpacrA32 v).bothNames = s.bothNames := rfl
@[simp] theorem State.writeCpacrA32_cptrEL2 (v : BitVec 32) : (s.writeCpacrA32 v).cptrEL2 = s.cptrEL2 := rfl
@[simp] theorem State.writeCpacrA32_nvMem (v : BitVec 32) : (s.writeCpacrA32 v).nvMem = s.nvMem := rfl
@[simp] theorem State.writeCpacrA32_mem (v : BitVec 32) : (s.writeCpacrA32 v).mem = s.mem := rfl
@[simp] theorem State.writeCpacrA32_schedule (v : BitVec 32) : (s.writeCpacrA32 v).schedule = s.schedule := rfl

end Sys2Proof.Machine
end

