-- ==== Sys2Proof/Laws/Access.lean ====
section
/-! SUPPORT. What an accessor can do, said once: its hazard, its route and the state it leaves, in the terms of
Safety.lean. -/

namespace Sys2Proof.Machine

@[simp] theorem other_other (m : Mnemonic) : m.other.other = m := by cases m <;> rfl

@[simp] theorem other_ne (m : Mnemonic) : m.other ≠ m := by cases m <;> decide

theorem State.orderWatched_iff (s : State) : s.orderWatched = true ↔ s.watched := by
  simp [State.orderWatched, State.watched]

/-- The refusal of 20_memory R48 happens exactly on an unordered access. -/
theorem State.mnemonicHazard_iff (s : State) (m : Mnemonic) (w : Bool) :
    s.mnemonicHazard m w = true ↔ s.unordered m w := by
  simp [State.mnemonicHazard, State.unordered, State.orderWatched_iff]

/-- Advancing the pc and noting the access is the common part of every completing accessor. -/
theorem State.noteAccess_advancePC (s : State) (m : Mnemonic) (w : Bool) :
    (s.noteAccess m w).advancePC = s.accessed m w := by
  unfold State.noteAccess State.advancePC State.accessed State.orderWatched
  by_cases h : s.env.el = .el3 ∧ s.env.effE2H = true
  · simp [h.1, h.2, beq_eq_decide]
  · have h' : (s.env.el == .el3 && s.env.effE2H) = false := by
      simpa [← Bool.not_eq_true] using h
    simp [h, h']

/-- What a read through a route answers. -/
theorem readRoute_next {r : Route} {t : Nat} {s s' : State} (h : readRoute r t s = .next s') :
    (r = .cpacr ∧ s' = (s.writeX t s.cpacr).advancePC) ∨ (r = .cptrEL2 ∧ s' = (s.writeX t s.cptrEL2).advancePC) ∨
    (r = .nvMem ∧ s.env.nvMemFault = false ∧ s' = (s.writeX t s.nvMem).advancePC) := by
  cases r with
  | undefined => simp [readRoute, raise] at h
  | trapTo target => simp [readRoute, raise] at h
  | cpacr => exact .inl ⟨rfl, by simpa [readRoute] using h.symm⟩
  | cptrEL2 => exact .inr (.inl ⟨rfl, by simpa [readRoute] using h.symm⟩)
  | nvMem =>
    simp only [readRoute] at h
    split at h
    · simp [raise] at h
    · rename_i hf
      exact .inr (.inr ⟨rfl, by simpa using hf, by simpa using h.symm⟩)

/-- What a write through a route answers. -/
theorem writeRoute_next {r : Route} {t : Nat} {s s' : State} (h : writeRoute r t s = .next s') :
    (r = .cpacr ∧ s' = (s.writeCpacr (s.readX t)).advancePC) ∨
    (r = .cptrEL2 ∧ s' = (s.writeCptrEL2 (s.readX t)).advancePC) ∨
    (r = .nvMem ∧ s.env.nvMemFault = false ∧ s' = (s.writeNvMem (s.readX t)).advancePC) := by
  cases r with
  | undefined => simp [writeRoute, raise] at h
  | trapTo target => simp [writeRoute, raise] at h
  | cpacr => exact .inl ⟨rfl, by simpa [writeRoute] using h.symm⟩
  | cptrEL2 => exact .inr (.inl ⟨rfl, by simpa [writeRoute] using h.symm⟩)
  | nvMem =>
    simp only [writeRoute] at h
    split at h
    · simp [raise] at h
    · rename_i hf
      exact .inr (.inr ⟨rfl, by simpa using hf, by simpa using h.symm⟩)

/-- The route that ends in a storage. -/
def Storage.route : Storage → Route
  | .cpacr => .cpacr
  | .cptrEL2 => .cptrEL2
  | .nvMem => .nvMem

/-- The EL3 gate lets a storage through exactly when `CPTR_EL3.TCPAC` does not act. -/
theorem el3Gate_iff (s : State) (r : Route) (p : Storage) :
    (if sddUndefFirst s.impl s.env then Route.undefined else el3Gate s.impl s.env r) = p.route ↔
      s.el3TrapOff ∧ r = p.route := by
  unfold sddUndefFirst el3Gate State.el3TrapOff
  cases p <;> cases s.impl.haveEL3 <;> cases s.env.tcpac3 <;> cases s.env.sddUndefPrio <;> cases s.env.sddUndef <;>
    simp [Storage.route]

/-- The two traps to EL2 let a storage through exactly when neither acts. -/
theorem el2Traps_iff (s : State) (w : Bool) (r : Route) (p : Storage) :
    (if s.env.el2Enabled && s.env.tcpac2 then Route.trapTo .el2
      else if fineGrainedTrap s.impl s.env (s.hfg w) then Route.trapTo .el2 else r) = p.route ↔
      s.el2TrapsOff w ∧ r = p.route := by
  unfold fineGrainedTrap State.el2TrapsOff
  generalize s.hfg w = f
  cases p <;> cases s.env.el2Enabled <;> cases s.env.tcpac2 <;> cases s.impl.featFGT <;> cases s.impl.haveEL3 <;>
    cases s.env.fgtEn <;> cases f <;> simp [Storage.route]

/-- The route of the name `CPACR_EL1` ends in a storage exactly when the table of 41 R108 says it is reached. -/
theorem routeCpacrEL1_iff (s : State) (w : Bool) (p : Storage) :
    routeCpacrEL1 s.impl s.env (s.hfg w) = p.route ↔ s.reaches .cpacrEL1 w p := by
  unfold routeCpacrEL1
  cases hel : s.env.el
  · cases p <;> simp [State.reaches, hel, Storage.route]
  · have hg := el3Gate_iff s (if s.env.nvx == 0b111 then .nvMem else .cpacr) p
    have h2 := el2Traps_iff s w (el3Gate s.impl s.env (if s.env.nvx == 0b111 then .nvMem else .cpacr)) p
    by_cases hs : sddUndefFirst s.impl s.env = true
    · rw [if_pos hs] at hg
      have hoff : ¬ s.el3TrapOff := by
        simp only [sddUndefFirst, Bool.and_eq_true] at hs
        exact fun h => h ⟨hs.1.1, hs.2⟩
      cases p <;> simp [hs, State.reaches, hel, hoff, Storage.route]
    · rw [if_neg hs] at hg
      simp only [if_neg hs, h2, hg]
      cases p <;> by_cases hn : s.env.nvx = 7#3 <;> simp [State.reaches, hel, hn, Storage.route, and_comm]
  · have hg := el3Gate_iff s (if s.env.hostEL2 then .cptrEL2 else .cpacr) p
    simp only [hg]
    cases p <;> cases hh : s.env.hostEL2 <;> simp [State.reaches, hel, hh, Storage.route]
  · cases p <;> simp [State.reaches, hel, Storage.route]

/-- The route of the name `CPACR_EL12` ends in a storage exactly when the table of 41 R108 says it is reached. -/
theorem routeCpacrEL12_iff (s : State) (w : Bool) (p : Storage) :
    routeCpacrEL12 s.impl s.env = p.route ↔ s.reaches .cpacrEL12 w p := by
  unfold routeCpacrEL12
  cases hel : s.env.el
  · cases p <;> simp [State.reaches, hel, Storage.route]
  · by_cases hn : s.env.nvx = 5#3
    · cases p <;> simp [State.reaches, hel, hn, Storage.route]
    · cases p <;> cases h0 : s.env.nvx.getLsbD 0 <;> simp [State.reaches, hel, hn, Storage.route]
  · cases hh : s.env.hostEL2
    · cases p <;> simp [State.reaches, hel, hh, Storage.route]
    · simp only [if_true, el3Gate_iff]
      cases p <;> simp [State.reaches, hel, hh, Storage.route]
  · cases p <;> cases hh : s.env.hostEL2 <;> simp [State.reaches, hel, hh, Storage.route]

/-- A state without its hazard, for rewriting. -/
theorem State.mnemonicHazard_false {s : State} {m : Mnemonic} {w : Bool} (h : ¬ s.unordered m w) :
    s.mnemonicHazard m w = false := by
  rw [← Bool.not_eq_true, State.mnemonicHazard_iff]
  exact h

/-- A read through the route of a storage, when a memory access does not fault. -/
theorem readRoute_of_storage {s : State} {p : Storage} (t : Nat) (h : p = .nvMem → s.env.nvMemFault = false) :
    readRoute p.route t s = .next (s.writeX t (s.held p)).advancePC := by
  cases p with
  | cpacr => rfl
  | cptrEL2 => rfl
  | nvMem => simp [readRoute, Storage.route, h rfl, State.held]

/-- A write through the route of a storage, when a memory access does not fault. -/
theorem writeRoute_of_storage {s : State} {p : Storage} (t : Nat) (h : p = .nvMem → s.env.nvMemFault = false) :
    writeRoute p.route t s = .next (s.stored p (s.readX t)).advancePC := by
  cases p with
  | cpacr => rfl
  | cptrEL2 => rfl
  | nvMem => simp [writeRoute, Storage.route, h rfl, State.stored, State.writeNvMem]

/-- What an `MRS` that answers a next state has done: one storage was reached, and its value is in `X[t]`. -/
def ReadDone (m : Mnemonic) (t : Nat) (s s' : State) : Prop :=
  ∃ p, s.reaches m false p ∧ s' = { s.accessed m false with x := setX t (s.held p) s.x }

/-- What an `MSR` that answers a next state has done: one storage was reached, and holds `X[t]`. -/
def WriteDone (m : Mnemonic) (t : Nat) (s s' : State) : Prop :=
  ∃ p, s.reaches m true p ∧ s' = (s.accessed m true).stored p (s.readX t)

theorem readDone_of_route {m : Mnemonic} {r : Route} {t : Nat} {s s' : State}
    (hr : ∀ p : Storage, r = p.route → s.reaches m false p)
    (h : readRoute r t (s.noteAccess m false) = .next s') : ReadDone m t s s' := by
  have key (v : Word) : ((s.noteAccess m false).writeX t v).advancePC = { s.accessed m false with x := setX t v s.x } := by
    rw [← State.noteAccess_advancePC]
    rfl
  rcases readRoute_next h with ⟨e, rfl⟩ | ⟨e, rfl⟩ | ⟨e, -, rfl⟩
  · exact ⟨.cpacr, hr .cpacr e, key _⟩
  · exact ⟨.cptrEL2, hr .cptrEL2 e, key _⟩
  · exact ⟨.nvMem, hr .nvMem e, key _⟩

theorem writeDone_of_route {m : Mnemonic} {r : Route} {t : Nat} {s s' : State}
    (hr : ∀ p : Storage, r = p.route → s.reaches m true p)
    (h : writeRoute r t (s.noteAccess m true) = .next s') : WriteDone m t s s' := by
  rcases writeRoute_next h with ⟨e, rfl⟩ | ⟨e, rfl⟩ | ⟨e, -, rfl⟩
  · exact ⟨.cpacr, hr .cpacr e, by rw [← State.noteAccess_advancePC]; rfl⟩
  · exact ⟨.cptrEL2, hr .cptrEL2 e, by rw [← State.noteAccess_advancePC]; rfl⟩
  · exact ⟨.nvMem, hr .nvMem e, by rw [← State.noteAccess_advancePC]; rfl⟩

/-- Everything an instruction can do, if it answers a next state. -/
theorem exec_next {i : Instr} {s s' : State} (h : exec i s = .next s') :
    (∃ t, i = .mrsCpacrEl1 t ∧ ReadDone .cpacrEL1 t s s') ∨ (∃ t, i = .msrCpacrEl1 t ∧ WriteDone .cpacrEL1 t s s') ∨
    (∃ t, i = .mrsCpacrEl12 t ∧ ReadDone .cpacrEL12 t s s') ∨
    (∃ t, i = .msrCpacrEl12 t ∧ WriteDone .cpacrEL12 t s s') := by
  cases i with
  | mrsCpacrEl1 t =>
    simp only [exec, execMrsCpacrEl1] at h
    split at h
    · cases h
    · exact .inl ⟨t, rfl, readDone_of_route (fun p e => (routeCpacrEL1_iff s false p).mp e) h⟩
  | msrCpacrEl1 t =>
    simp only [exec, execMsrCpacrEl1] at h
    split at h
    · cases h
    · exact .inr (.inl ⟨t, rfl, writeDone_of_route (fun p e => (routeCpacrEL1_iff s true p).mp e) h⟩)
  | mrsCpacrEl12 t =>
    simp only [exec, execMrsCpacrEl12] at h
    split at h
    · cases h
    · exact .inr (.inr (.inl ⟨t, rfl, readDone_of_route (fun p e => (routeCpacrEL12_iff s false p).mp e) h⟩))
  | msrCpacrEl12 t =>
    simp only [exec, execMsrCpacrEl12] at h
    split at h
    · cases h
    · exact .inr (.inr (.inr ⟨t, rfl, writeDone_of_route (fun p e => (routeCpacrEL12_iff s true p).mp e) h⟩))

/-- What the read by a name has done, if it answers a next state. -/
theorem exec_mrs_next {m : Mnemonic} {t : Nat} {s s' : State} (h : exec (m.mrs t) s = .next s') : ReadDone m t s s' := by
  cases m <;> rcases exec_next h with ⟨_, e, d⟩ | ⟨_, e, d⟩ | ⟨_, e, d⟩ | ⟨_, e, d⟩ <;> cases e <;> exact d

/-- What the write by a name has done, if it answers a next state. -/
theorem exec_msr_next {m : Mnemonic} {t : Nat} {s s' : State} (h : exec (m.msr t) s = .next s') : WriteDone m t s s' := by
  cases m <;> rcases exec_next h with ⟨_, e, d⟩ | ⟨_, e, d⟩ | ⟨_, e, d⟩ | ⟨_, e, d⟩ <;> cases e <;> exact d

end Sys2Proof.Machine
end

