-- ==== Sys2Proof/Laws/Checks.lean ====
section
/-! SUPPORT. What a trap check can answer, said once. -/

namespace Sys2Proof.Machine

theorem active_iff (env : Env) : active env = true ↔ env.fieldsAct := by
  unfold active overridden Env.fieldsAct Env.hostOverride
  cases env.el2Enabled <;> cases env.effE2H <;> cases env.effTGE <;> simp

theorem trapTarget_of_routed {env : Env} (h : env.routesToEL2) : trapTarget env = .el2 := by
  simp [trapTarget, h.1, h.2]

theorem trapTarget_of_not_routed {env : Env} (h : ¬ env.routesToEL2) : trapTarget env = .el1 := by
  have h' : ¬ (env.el2Enabled && env.tge) = true := by simpa [Env.routesToEL2] using h
  simp [trapTarget, h']

theorem en2Traps_iff (f : BitVec 2) (el : EL) : en2Traps f el = true ↔ fieldTraps f el := by
  revert f
  cases el <;> simp only [en2Traps, fieldTraps] <;> decide

/-- A conditional trap answers nothing but that trap or no trap. -/
theorem trapIf_cases (c : Bool) (env : Env) (ec : BitVec 6) (iss : Iss) :
    (c = true ∧ trapIf c env ec iss = .trap (trapTarget env) ec iss) ∨ (c = false ∧ trapIf c env ec iss = .noTrap) := by
  cases c <;> simp [trapIf]

end Sys2Proof.Machine
end

