-- ==== Sys2Proof/Laws/Decode.lean ====
section
/-! SUPPORT. The word layout of 30_encoding R57: what each bit of a joined word is, and the bytes of a word. -/

namespace Sys2Proof

/-- The four bytes of a word, put together again. -/
theorem join_wordBytes (w : InsnWord) :
    (w.extractLsb' 24 8 ++ w.extractLsb' 16 8 ++ w.extractLsb' 8 8 ++ w.extractLsb' 0 8 : BitVec 32) = w := by
  apply BitVec.eq_of_getLsbD_eq
  intro i hi
  simp only [BitVec.getLsbD_append, BitVec.getLsbD_extractLsb']
  by_cases h0 : i < 8
  · simp [h0]
  · by_cases h1 : i < 16
    · simp [h0, show i - 8 < 8 by omega, show 8 + (i - 8) = i by omega]
    · by_cases h2 : i < 24
      · simp [h0, show ¬ i - 8 < 8 by omega, show i - 8 - 8 < 8 by omega, show 16 + (i - 8 - 8) = i by omega]
      · simp [h0, show ¬ i - 8 < 8 by omega, show ¬ i - 8 - 8 < 8 by omega, show i - 8 - 8 - 8 < 8 by omega,
          show 24 + (i - 8 - 8 - 8) = i by omega]

/-- Decoding the bytes of a word is decoding the word. -/
theorem decode_wordBytes (w : InsnWord) (rest : List Byte) :
    decode (wordBytes w ++ rest) =
      match decodeWord w with
      | .ok i => .ok (i, rest)
      | .error e => .error e := by
  cases h : decodeWord w <;> simp only [wordBytes, List.cons_append, List.nil_append, decode, join_wordBytes, h]

end Sys2Proof
end

