-- ==== Sys2Proof/Laws/Fields.lean ====
section
/-! SUPPORT. The RES0 rule (10_state R13) and the fields of a stored value. -/

namespace Sys2Proof.Machine

theorem storeFilter_razWi {impl : Impl} (h : impl.res0Mode = .razWi) (v : Word) :
    storeFilter impl v = v &&& liveMask impl := by
  simp [storeFilter, h]

theorem storeFilter_stateful {impl : Impl} (h : impl.res0Mode = .stateful) (v : Word) : storeFilter impl v = v := by
  simp only [storeFilter, h, ← BitVec.and_or_distrib_left, BitVec.or_not_self, BitVec.and_allOnes]

/-- A stored value is 0 in every RES0 bit where the mode says so. -/
theorem storeFilter_reservedClear (impl : Impl) (v : Word) : reservedClear impl (storeFilter impl v) := by
  intro h
  simp [storeFilter_razWi h, BitVec.and_assoc]

/-- The bits of the fields present are stored as written. -/
theorem storeFilter_live (impl : Impl) (v : Word) : storeFilter impl v &&& liveMask impl = v &&& liveMask impl := by
  cases h : impl.res0Mode
  · rw [storeFilter_razWi h, BitVec.and_assoc, BitVec.and_self]
  · rw [storeFilter_stateful h]

/-- A bit that the mask holds is the same in two values that agree under the mask. -/
theorem getLsbD_of_and_eq {v w m : Word} {n : Nat} (h : v &&& m = w &&& m) (hm : m.getLsbD n = true) :
    v.getLsbD n = w.getLsbD n := by
  have := congrArg (fun u : Word => u.getLsbD n) h
  simpa [BitVec.getLsbD_and, hm] using this

/-- A field's mask holds exactly the field's bits. -/
theorem getLsbD_fieldMask (width pos n : Nat) :
    (fieldMask width pos).getLsbD n = (decide (n < 64) && (decide (pos ≤ n) && decide (n < pos + width))) := by
  simp only [fieldMask, BitVec.getLsbD_ofNat, Nat.testBit_mul_two_pow, Nat.testBit_two_pow_sub_one]
  by_cases h : pos ≤ n
  · simp [h, show n - pos < width ↔ n < pos + width by omega]
  · simp [h]

/-- A bit of a field that is present, in two values that agree on the fields present. -/
theorem field_bit_eq {v w : Word} {impl : Impl} {present : Bool} {width pos n : Nat} (h : v &&& liveMask impl = w &&& liveMask impl)
    (hf : ∀ k, (liveField present width pos).getLsbD k = true → (liveMask impl).getLsbD k = true)
    (hp : present = true) (h0 : pos ≤ n) (h1 : n < pos + width) : v.getLsbD n = w.getLsbD n := by
  by_cases hn : n < 64
  · exact getLsbD_of_and_eq h (hf n (by simp [liveField, hp, getLsbD_fieldMask, hn, h0, h1]))
  · rw [BitVec.getLsbD_of_ge _ _ (by omega), BitVec.getLsbD_of_ge _ _ (by omega)]

/-- Two values with the same two bits have the same two-bit field. -/
theorem extract_two_eq {v w : Word} {lo : Nat} (h0 : v.getLsbD lo = w.getLsbD lo)
    (h1 : v.getLsbD (lo + 1) = w.getLsbD (lo + 1)) : v.extractLsb' lo 2 = w.extractLsb' lo 2 := by
  apply BitVec.eq_of_getLsbD_eq
  intro i hi
  have : i = 0 ∨ i = 1 := by omega
  rcases this with rfl | rfl
  · simpa using h0
  · simpa using h1

/-- Values that agree on the fields present have the same fields, wherever the table puts them. -/
theorem fields_eq {v w : Word} {impl : Impl} (h : v &&& liveMask impl = w &&& liveMask impl) :
    (impl.featS1POE = true → e0poe impl.fieldPos v = e0poe impl.fieldPos w) ∧
    (impl.traceSysreg = true → tta impl.fieldPos v = tta impl.fieldPos w) ∧
    (impl.featSME = true → smen impl.fieldPos v = smen impl.fieldPos w) ∧
    fpen impl.fieldPos v = fpen impl.fieldPos w ∧
    (impl.featSVE = true → zen impl.fieldPos v = zen impl.fieldPos w) := by
  refine ⟨fun hp => ?_, fun hp => ?_, fun hp => ?_, ?_, fun hp => ?_⟩
  · exact field_bit_eq (width := 1) (pos := impl.fieldPos.e0poe) h (fun k hk => by simp [liveMask, hk]) hp (by omega)
      (by omega)
  · exact field_bit_eq (width := 1) (pos := impl.fieldPos.tta) h (fun k hk => by simp [liveMask, hk]) hp (by omega)
      (by omega)
  · have b (n : Nat) := field_bit_eq (width := 2) (pos := impl.fieldPos.smen) (n := n) h
      (fun k hk => by simp [liveMask, hk]) hp
    exact extract_two_eq (b _ (by omega) (by omega)) (b _ (by omega) (by omega))
  · have b (n : Nat) := field_bit_eq (width := 2) (pos := impl.fieldPos.fpen) (n := n) (present := true) h
      (fun k hk => by simp only [liveField, if_true] at hk; simp [liveMask, hk]) rfl
    exact extract_two_eq (b _ (by omega) (by omega)) (b _ (by omega) (by omega))
  · have b (n : Nat) := field_bit_eq (width := 2) (pos := impl.fieldPos.zen) (n := n) h
      (fun k hk => by simp [liveMask, hk]) hp
    exact extract_two_eq (b _ (by omega) (by omega)) (b _ (by omega) (by omega))

end Sys2Proof.Machine
end

