-- ==== Sys2Proof/Laws/Memory.lean ====
section
/-! SUPPORT. The laws of instruction memory: a read after a write, and every operation keeps the canonical form. -/

namespace Sys2Proof.Machine

theorem Memory.read_write_same (m : Memory) (a : Nat) (b : Byte) : (m.write a b).read a = some b := by
  induction m with
  | nil => simp [Memory.write, Memory.read]
  | cons p m ih =>
    obtain ⟨k, c⟩ := p
    by_cases h1 : a < k
    · simp [Memory.write, h1, Memory.read]
    · by_cases h2 : a = k
      · simp [Memory.write, h2, Memory.read]
      · simp [Memory.write, h1, h2, Memory.read, ih]

theorem Memory.read_write_other (m : Memory) {a a' : Nat} (b : Byte) (h : a' ≠ a) :
    (m.write a b).read a' = m.read a' := by
  induction m with
  | nil => simp [Memory.write, Memory.read, h]
  | cons p m ih =>
    obtain ⟨k, c⟩ := p
    by_cases h1 : a < k
    · simp [Memory.write, h1, Memory.read, h]
    · by_cases h2 : a = k
      · subst h2
        simp [Memory.write, Memory.read, h]
      · simp [Memory.write, h1, h2, Memory.read, ih]

/-- A write lists no address but the old ones and its own. -/
theorem Memory.mem_write {m : Memory} {a : Nat} {b : Byte} {p : Host.Cell} (h : p ∈ m.write a b) :
    p = (a, b) ∨ p ∈ m := by
  induction m with
  | nil => simpa [Memory.write] using h
  | cons q m ih =>
    obtain ⟨k, c⟩ := q
    by_cases h1 : a < k
    · simpa [Memory.write, h1] using h
    · by_cases h2 : a = k
      · simp only [Memory.write, h2, if_true, if_false, lt_self_iff_false, List.mem_cons] at h ⊢
        tauto
      · simp only [Memory.write, h1, h2, if_false, List.mem_cons] at h ⊢
        rcases h with h | h
        · exact .inr (.inl h)
        · rcases ih h with h | h
          · exact .inl h
          · exact .inr (.inr h)

theorem Memory.write_wf {m : Memory} (hm : m.wf) {a : Nat} (b : Byte) (ha : a < 2 ^ 64) : (m.write a b).wf := by
  refine ⟨?_, fun p hp => ?_⟩
  · obtain ⟨hs, -⟩ := hm
    induction m with
    | nil => simp [Memory.write]
    | cons q m ih =>
      obtain ⟨k, c⟩ := q
      obtain ⟨hk, hs'⟩ := List.pairwise_cons.mp hs
      by_cases h1 : a < k
      · simp only [Memory.write, h1, if_true, List.pairwise_cons]
        refine ⟨fun p hp => ?_, hk, hs'⟩
        rcases List.mem_cons.mp hp with rfl | hp
        · exact h1
        · exact h1.trans (hk p hp)
      · by_cases h2 : a = k
        · subst h2
          simp only [Memory.write, lt_self_iff_false, if_false, if_true, List.pairwise_cons]
          exact ⟨hk, hs'⟩
        · simp only [Memory.write, h1, h2, if_false, List.pairwise_cons]
          refine ⟨fun p hp => ?_, ih hs'⟩
          rcases Memory.mem_write hp with rfl | hp
          · exact lt_of_le_of_ne (Nat.le_of_not_lt h1) (Ne.symm h2)
          · exact hk p hp
  · rcases Memory.mem_write hp with rfl | hp
    · exact ha
    · exact hm.2 p hp

theorem Memory.writeBytes_wf (bs : List Byte) :
    ∀ {m : Memory} {a : Nat}, m.wf → a + bs.length ≤ 2 ^ 64 → (m.writeBytes a bs).wf := by
  induction bs with
  | nil => intro m a hm _; exact hm
  | cons b bs ih =>
    intro m a hm ha
    simp only [List.length_cons] at ha
    exact ih (Memory.write_wf hm b (by omega)) (by omega)

/-- Writing bytes leaves every address outside them alone. -/
theorem Memory.read_writeBytes_other (bs : List Byte) :
    ∀ (m : Memory) (a : Nat) {a' : Nat}, (a' < a ∨ a + bs.length ≤ a') → (m.writeBytes a bs).read a' = m.read a' := by
  induction bs with
  | nil => intros; rfl
  | cons b bs ih =>
    intro m a a' h
    simp only [List.length_cons] at h
    rw [Memory.writeBytes, ih _ _ (by omega), Memory.read_write_other _ _ (by omega)]

/-- Reading the bytes just written gives them back. -/
theorem Memory.readBytes_writeBytes (bs : List Byte) :
    ∀ (m : Memory) (a : Nat), (m.writeBytes a bs).readBytes a bs.length = .ok bs := by
  induction bs with
  | nil => intros; rfl
  | cons b bs ih =>
    intro m a
    have h : ((m.write a b).writeBytes (a + 1) bs).read a = some b := by
      rw [Memory.read_writeBytes_other _ _ _ (by omega), Memory.read_write_same]
    simp only [Memory.writeBytes, List.length_cons, Memory.readBytes, h, ih]

end Sys2Proof.Machine
end

