-- ==== Sys2Proof/Laws/Operands.lean ====
section
/-! SUPPORT. The laws of the operand `<Xt>`: a read after a write, and register 31. -/

namespace Sys2Proof.Machine

theorem getX_setX_same {t : Nat} (h : t < 31) (v : Word) (x : Vector Word 31) : getX t (setX t v x) = v := by
  simp [getX, setX, h]

theorem getX_setX_other {t k : Nat} (h : k ≠ t) (v : Word) (x : Vector Word 31) : getX k (setX t v x) = getX k x := by
  unfold getX setX
  split
  · split
    · rw [Vector.getElem_set_ne]
      omega
    · rfl
  · rfl

/-- The zero register reads as zero (10_state R23). -/
@[simp] theorem getX_zero {t : Nat} (h : 31 ≤ t) (x : Vector Word 31) : getX t x = 0 := by
  simp [getX, Nat.not_lt.mpr h]

/-- The zero register discards what is written to it (10_state R23). -/
@[simp] theorem setX_zero {t : Nat} (h : 31 ≤ t) (v : Word) (x : Vector Word 31) : setX t v x = x := by
  simp [setX, Nat.not_lt.mpr h]

end Sys2Proof.Machine
end

