-- ==== Sys2Proof/Laws/PerInstr.lean ====
section
/-! SUPPORT. Statements made of every instruction, one lemma per constructor. -/

namespace Sys2Proof

namespace Laws

/-- The word of a well-formed instruction has the instruction's operand in `Rt`, and above it exactly one of the four
match values of 30_encoding R57. -/
def EncodesUnderMask.matchValue : Instr → InsnWord
  | .mrsCpacrEl1 _ => 0xD5381040
  | .msrCpacrEl1 _ => 0xD5181040
  | .mrsCpacrEl12 _ => 0xD53D1040
  | .msrCpacrEl12 _ => 0xD51D1040

/-- The family: mask and operand field of the encoding. -/
def EncodesUnderMask.Statement (i : Instr) : Prop :=
  i.WellFormed → encodeWord i &&& 0xFFFFFFE0 = EncodesUnderMask.matchValue i ∧
    (encodeWord i).extractLsb' 0 5 = BitVec.ofNat 5 i.rt

theorem EncodesUnderMask.mrsCpacrEl1 (t : Nat) : EncodesUnderMask.Statement (.mrsCpacrEl1 t) := by
  intro h
  have h : t < 32 := of_decide_eq_true h
  interval_cases t <;> decide

theorem EncodesUnderMask.msrCpacrEl1 (t : Nat) : EncodesUnderMask.Statement (.msrCpacrEl1 t) := by
  intro h
  have h : t < 32 := of_decide_eq_true h
  interval_cases t <;> decide

theorem EncodesUnderMask.mrsCpacrEl12 (t : Nat) : EncodesUnderMask.Statement (.mrsCpacrEl12 t) := by
  intro h
  have h : t < 32 := of_decide_eq_true h
  interval_cases t <;> decide

theorem EncodesUnderMask.msrCpacrEl12 (t : Nat) : EncodesUnderMask.Statement (.msrCpacrEl12 t) := by
  intro h
  have h : t < 32 := of_decide_eq_true h
  interval_cases t <;> decide

end Laws

end Sys2Proof
end

