-- ==== Sys2Proof/Laws/Stale.lean ====
section
/-! SUPPORT. The pending set: what `insertStale` holds, that it keeps the one form, and what a check can read. -/

namespace Sys2Proof.Machine

theorem mem_insertStale {v w : Word} {l : List Word} : w ∈ insertStale v l ↔ w = v ∨ w ∈ l := by
  induction l with
  | nil => simp [insertStale]
  | cons u l ih =>
    by_cases h1 : v.toNat < u.toNat
    · simp [insertStale, h1]
    · by_cases h2 : v = u
      · subst h2
        simp [insertStale]
      · simp only [insertStale, h1, h2, if_false, List.mem_cons, ih]
        tauto

theorem insertStale_wf {v : Word} {l : List Word} (h : staleWf l) : staleWf (insertStale v l) := by
  unfold staleWf at *
  induction l with
  | nil => simp [insertStale]
  | cons u l ih =>
    obtain ⟨hu, hl⟩ := List.pairwise_cons.mp h
    by_cases h1 : v.toNat < u.toNat
    · simp only [insertStale, h1, if_true, List.pairwise_cons]
      refine ⟨fun w hw => ?_, hu, hl⟩
      rcases List.mem_cons.mp hw with rfl | hw
      · exact h1
      · exact h1.trans (hu w hw)
    · by_cases h2 : v = u
      · subst h2
        simpa only [insertStale, lt_self_iff_false, if_false, if_true] using h
      · simp only [insertStale, h1, h2, if_false, List.pairwise_cons]
        refine ⟨fun w hw => ?_, ih hl⟩
        rcases mem_insertStale.mp hw with rfl | hw
        · exact lt_of_le_of_ne (Nat.le_of_not_lt h1) (fun e => h2 (BitVec.eq_of_toNat_eq e.symm))
        · exact hu w hw

/-- A check's value is the current one or a pending one. -/
theorem State.checkValue_mem (s : State) (pick : Nat) : s.checkValue pick ∈ s.cpacr :: s.stale := by
  unfold State.checkValue
  rw [List.getD_eq_getElem?_getD]
  cases h : (s.cpacr :: s.stale)[pick]? with
  | none => simp
  | some v => simpa using List.mem_of_getElem? h

end Sys2Proof.Machine
end

