-- ==== Sys2Proof/Laws/Step.lean ====
section
/-! SUPPORT. Everything one step can do, said once. -/

namespace Sys2Proof.Machine

/-- A step that answers a next state ran one instruction, on the PE's turn, or was one event. -/
theorem step_next {s s' : State} (h : step s = .next s') :
    (s.insnTurn ∧ ∃ i, fetch s.turnTaken = .instr i ∧ exec i s.turnTaken = .next s') ∨
    (∃ e rest, s.schedule = .outside e :: rest ∧ applyEvent e s.turnTaken = .next s') := by
  have insn {s₀ : State} (h₀ : stepInstruction s₀ = .next s') : ∃ i, fetch s₀ = .instr i ∧ exec i s₀ = .next s' := by
    simp only [stepInstruction] at h₀
    split at h₀
    · exact ⟨_, ‹_›, h₀⟩
    · cases h₀
    · cases h₀
  unfold step at h
  split at h
  · rename_i hs
    have e : s.turnTaken = s := by
      unfold State.turnTaken
      rw [hs, List.tail_nil, ← hs]
    rw [e]
    exact .inl ⟨.inl hs, insn h⟩
  · rename_i rest hs
    have e : s.turnTaken = { s with schedule := rest } := by simp [State.turnTaken, hs]
    rw [e]
    exact .inl ⟨.inr ⟨rest, hs⟩, insn h⟩
  · rename_i ev rest hs
    have e : s.turnTaken = { s with schedule := rest } := by simp [State.turnTaken, hs]
    rw [e]
    exact .inr ⟨ev, rest, hs, h⟩

/-- A check that answers a next state leaves the state as it was (40_field_trap_controls R86). -/
theorem checkEvent_next {c : TrapClass} {pick : Nat} {s s' : State} (h : checkEvent c pick s = .next s') :
    s' = s ∧ cpacrCheck c s.env s.impl (s.checkValue pick) = .noTrap := by
  simp only [checkEvent] at h
  split at h
  · exact ⟨by simpa using h.symm, ‹_›⟩
  · cases h
  · simp [raise] at h

/-- Everything an event can leave. -/
theorem applyEvent_next {e : Event} {s s' : State} (h : applyEvent e s = .next s') :
    (∃ env, e = .setEnv env ∧ s' = { s with env := env }) ∨ (e = .contextSync ∧ s' = s.contextSync) ∨
    (∃ c pick, e = .check c pick ∧ s' = s) ∨ (∃ v, e = .agentWrite v ∧ s' = s.writeNvMem v) ∨
    (∃ v, e = .writeA32 v ∧ s' = s.writeCpacrA32 v) ∨
    (∃ x pc c, e = .otherInsn x pc c ∧ s' = { s with x := x, pc := pc, cptrEL2 := c }) ∨
    (∃ d, e = .reset d ∧ s' = State.boot s.impl s.mem s.schedule d) := by
  cases e with
  | setEnv env => exact .inl ⟨env, rfl, by simpa [applyEvent] using h.symm⟩
  | contextSync => exact .inr (.inl ⟨rfl, by simpa [applyEvent] using h.symm⟩)
  | check c pick => exact .inr (.inr (.inl ⟨c, pick, rfl, (checkEvent_next h).1⟩))
  | agentWrite v => exact .inr (.inr (.inr (.inl ⟨v, rfl, by simpa [applyEvent] using h.symm⟩)))
  | writeA32 v => exact .inr (.inr (.inr (.inr (.inl ⟨v, rfl, by simpa [applyEvent] using h.symm⟩))))
  | otherInsn x pc c => exact .inr (.inr (.inr (.inr (.inr (.inl ⟨x, pc, c, rfl, by simpa [applyEvent] using h.symm⟩)))))
  | reset d => exact .inr (.inr (.inr (.inr (.inr (.inr ⟨d, rfl, by simpa [applyEvent] using h.symm⟩)))))

/-- Reset leaves memory in its canonical form. -/
theorem State.reset_mem_wf : State.reset.mem.wf := ⟨.nil, nofun⟩

/-- A pc made a multiple of 4 has room for a word above it. -/
theorem aligned_room (pc : Word) : (pc &&& ~~~ 3).toNat + 4 ≤ 2 ^ 64 := by
  have h : (pc &&& ~~~ 3).toNat % 4 = 0 := by
    have : (pc &&& ~~~ 3).extractLsb' 0 2 = 0 := by
      apply BitVec.eq_of_getLsbD_eq
      intro i hi
      rcases (by omega : i = 0 ∨ i = 1) with rfl | rfl <;> simp
    simpa using congrArg BitVec.toNat this
  have := (pc &&& ~~~ 3).isLt
  omega

/-- Placing a word keeps memory in its canonical form. -/
theorem State.withFetchWord_mem_wf {s : State} (h : s.mem.wf) (nbits w : Nat) : (s.withFetchWord nbits w).mem.wf :=
  Memory.writeBytes_wf _ h (aligned_room s.pc)

end Sys2Proof.Machine
end

