-- ==== Sys2Proof/Tests/Slice0.lean ====
section
/-! SUPPORT. Tests: expected results are those of spec/95_test_vectors.md, named by its ids; then, for every statement
with hypotheses, a concrete state and operands that meet them. -/

namespace Sys2Proof.Machine

/-! ## Helpers -/

/-- A state at a level, with the quiet inputs: pc 0x1000, X1 = 0x300000, X3 = all ones, the rest marked by hand. -/
def demo (el : EL) : State :=
  { State.reset with
    env := { Env.quiet with el := el }
    pc := 0x1000
    x := (Vector.replicate 31 (0xAA : Word)).set 1 0x300000 |>.set 3 0xFFFFFFFFFFFFFFFF
    cpacr := 0x100000
    cptrEL2 := 0x1111111111111111
    nvMem := 0xAAAAAAAAAAAAAAAA }

/-- EL1 under nested virtualisation. -/
def demoNV (nvx : BitVec 3) : State :=
  { demo .el1 with env := { Env.quiet with el := .el1, el2Enabled := true, nvx := nvx } }

/-- A level with EL2 in host mode and Effective E2H = 1. -/
def demoHost (el : EL) : State :=
  { demo el with env := { Env.quiet with el := el, el2Enabled := true, effE2H := true, hostEL2 := true } }

/-- A state at EL1 with a word at its pc and a schedule. -/
def demoAt (w : InsnWord) (turns : List Turn) : State :=
  { demo .el1 with mem := Memory.writeBytes [] 0x1000 (wordBytes w), schedule := turns }

/-- The next state, where there is one. -/
def nextOf : Result → Option State
  | .next s => some s
  | _ => none

/-- The fault, where there is one. -/
def faultOf : Result → Option Fault
  | .fault f => some f
  | _ => none

/-- The refusal, where there is one. -/
def refusalOf : Result → Option Refusal
  | .refused r => some r
  | _ => none

/-! ## Well-formedness -/

theorem test_rt_thirty_one_fits : (Instr.mrsCpacrEl1 31).rtFits = true := by decide
/-- The one check, `rtFits` (30_encoding R58), refuses an operand number that `Rt` cannot hold. -/
theorem test_rt_thirty_two_refused : (Instr.msrCpacrEl12 32).rtFits = false := by decide

/-! ## Decoding: words written out from 30_encoding R57 and R56, vectors I1 to I17 -/

theorem test_decode_mrs_el1 : decodeWord 0b11010101001110000001000001011111#32 = .ok (.mrsCpacrEl1 31) := by decide
theorem test_decode_msr_el1 : decodeWord 0b11010101000110000001000001001010#32 = .ok (.msrCpacrEl1 10) := by decide
theorem test_decode_mrs_el12 : decodeWord 0b11010101001111010001000001000010#32 = .ok (.mrsCpacrEl12 2) := by decide
theorem test_decode_msr_el12 : decodeWord 0b11010101000111010001000001010001#32 = .ok (.msrCpacrEl12 17) := by decide
theorem test_decode_bytes_little_endian : decode [0x41, 0x10, 0x18, 0xD5, 0x07] = .ok (.msrCpacrEl1 1, [0x07]) := by
  decide
theorem test_decode_other_words_refused :
    [0xD5381020, 0xD5381060, 0xD5381140, 0xD5382040, 0xD53C1040, 0xD5301040, 0xD5581040, 0x55381040, 0x00000000].map
      (decodeTableWord 32) = List.replicate 9 none := by decide
theorem test_decode_short_refused : decode [0x41, 0x10, 0x18] = .error .truncated := by decide
theorem test_encode_msr_el1 : encode (.msrCpacrEl1 1) = [0x41, 0x10, 0x18, 0xD5] := by decide

/-! ## The instructions: one step each, vectors A1 to A62, W1, P3, P4, P6 -/

/-- A3. -/
theorem test_mrs_el1_reads_register :
    (nextOf (exec (.mrsCpacrEl1 0) (demo .el1))).map (fun s => (s.readX 0, s.pc)) = some (0x100000, 0x1004) := by decide
/-- A32: host mode redirects the name to CPTR_EL2. -/
theorem test_mrs_el1_host_reads_cptr :
    (nextOf (exec (.mrsCpacrEl1 5) (demoHost .el2))).map (fun s => s.readX 5) = some 0x1111111111111111 := by decide
/-- W1, S1: RES0 bits are filtered, the old value is pending. -/
theorem test_msr_el1_filters_and_keeps_old :
    (nextOf (exec (.msrCpacrEl1 3) (demo .el1))).map (fun s => (s.cpacr, s.stale)) = some (0x33330000, [0x100000]) := by
  decide
/-- A24, P3: to memory, unfiltered. -/
theorem test_msr_el1_nested_writes_memory :
    (nextOf (exec (.msrCpacrEl1 3) (demoNV 0b111))).map (fun s => (s.nvMem, s.cpacr, s.stale)) =
      some (0xFFFFFFFFFFFFFFFF, 0x100000, []) := by decide
/-- A53. -/
theorem test_mrs_el12_host_reads_register :
    (nextOf (exec (.mrsCpacrEl12 2) (demoHost .el2))).map (fun s => s.readX 2) = some 0x100000 := by decide
/-- A49, P3: the trap to EL2 and its record. -/
theorem test_mrs_el12_nested_traps :
    faultOf (exec (.mrsCpacrEl12 3) (demoNV 0b111)) =
      some (.systemAccessTrap ⟨.el1, .el2, 0x18, .unspecified, 0x1000⟩) := by decide
/-- A54. -/
theorem test_msr_el12_host_writes_register :
    (nextOf (exec (.msrCpacrEl12 1) (demoHost .el2))).map (fun s => (s.cpacr, s.cptrEL2)) =
      some (0x300000, 0x1111111111111111) := by decide
/-- A62. -/
theorem test_msr_el12_undefined_outside_host :
    faultOf (exec (.msrCpacrEl12 1) (demo .el3)) = some (.undefined .el3 0x1000) := by decide

/-! ## Checks, synchronisation, fetch: vectors T16, T23, T27, S9, M1, P6 -/

/-- T16: RES0 bits all ones change nothing. -/
theorem test_check_ignores_reserved_bits :
    cpacrCheck .fpsimdAccess (demo .el0).env Config.impl 0xFFFFFFFFFFCFFFFF = .trap .el1 0x07 .unspecified := by decide
/-- T23, with the default EC. -/
theorem test_check_fpen_sve_to_el2 :
    cpacrCheck .sveInsn { (demo .el0).env with el2Enabled := true, tge := true, effTGE := true } Config.impl 0x30000 =
      .trap .el2 0x07 .unspecified := by decide
/-- T27: SMEN's trap, with its ISS. -/
theorem test_check_smen_streaming :
    cpacrCheck .sveInsn { (demo .el0).env with streamingSVE := true } Config.impl 0x330000 = .trap .el1 0x1D (.value 0) := by
  decide
/-- S9: one check draws one value, the new or the old. -/
theorem test_one_draw_per_check :
    [0, 1].map (fun pick => faultOf (applyEvent (.check .sveInsn pick)
      { demo .el0 with cpacr := 0x300000, stale := [0x30000] })) =
      [some (.trap ⟨.el0, .el1, 0x19, .unspecified, 0x1000⟩), some (.trap ⟨.el0, .el1, 0x07, .unspecified, 0x1000⟩)] := by
  decide
/-- M1, P6. -/
theorem test_other_name_after_write_refused :
    ((nextOf (exec (.msrCpacrEl1 0) (demoHost .el3))).bind fun s => refusalOf (exec (.mrsCpacrEl12 1) s)) =
      some .crossMnemonic := by decide
/-- A read by each name, then a write: the write is unordered against the first read (20_memory R47, decision D12). -/
theorem test_write_after_reads_by_both_names_refused :
    (((nextOf (exec (.mrsCpacrEl1 0) (demoHost .el3))).bind fun s => nextOf (exec (.mrsCpacrEl12 1) s)).bind
      fun s => refusalOf (exec (.msrCpacrEl12 2) s)) = some .crossMnemonic := by decide
/-- An instruction outside the spec may change `CPTR_EL2` [29]. -/
theorem test_other_instruction_may_change_cptr :
    (nextOf (applyEvent (.otherInsn (demo .el1).x 0x1004 7) (demo .el1))).map (fun s => s.cptrEL2) = some 7 := by decide
/-- The first step after reset runs a word placed there; an unlisted address has no byte. -/
theorem test_reset_runs_placed_word :
    (nextOf (step (State.reset.withFetchWord 32 0xD518105F))).map (fun s => (s.cpacr, s.pc)) = some (0, 4) := by decide
theorem test_reset_fetches_nothing : faultOf (step State.reset) = some (.fetchUnmapped 0) := by decide

/-! ## Witnesses: the hypotheses of the statements can be met -/

theorem ordered_of {s : State} {m : Mnemonic} {w : Bool} (h : s.mnemonicHazard m w = false) : ¬ s.unordered m w :=
  fun hu => Bool.false_ne_true (h.symm.trans ((State.mnemonicHazard_iff s m w).mpr hu))

/-- The register, by the name `CPACR_EL1`, at EL1, EL2 and EL3. -/
theorem access_el1_cpacr (w : Bool) : (demo .el1).canAccess .cpacrEL1 w .cpacr :=
  ⟨ordered_of (by cases w <;> decide),
    .inl ⟨rfl, by unfold State.el3TrapOff; decide, by cases w <;> (unfold State.el2TrapsOff; decide), by decide⟩, nofun⟩
theorem access_el2_cpacr (w : Bool) : (demo .el2).canAccess .cpacrEL1 w .cpacr :=
  ⟨ordered_of (by cases w <;> decide), .inr (.inl ⟨rfl, by unfold State.el3TrapOff; decide, rfl⟩), nofun⟩
theorem access_el3_cpacr (w : Bool) : (demo .el3).canAccess .cpacrEL1 w .cpacr :=
  ⟨ordered_of (by cases w <;> decide), .inr (.inr rfl), nofun⟩
/-- `CPTR_EL2`, by the name `CPACR_EL1`. -/
theorem access_el2_cptr (w : Bool) : (demoHost .el2).canAccess .cpacrEL1 w .cptrEL2 :=
  ⟨ordered_of (by cases w <;> decide), ⟨rfl, by unfold State.el3TrapOff; decide, rfl⟩, nofun⟩
/-- The memory cell, by the name `CPACR_EL1`. -/
theorem access_nv_memory (w : Bool) : (demoNV 0b111).canAccess .cpacrEL1 w .nvMem :=
  ⟨ordered_of (by cases w <;> decide),
    ⟨rfl, by unfold State.el3TrapOff; decide, by cases w <;> (unfold State.el2TrapsOff; decide), rfl⟩, fun _ => rfl⟩
/-- The register by the name `CPACR_EL12`, at EL2 and EL3, and the memory cell. -/
theorem access_el12_el2 (w : Bool) : (demoHost .el2).canAccess .cpacrEL12 w .cpacr :=
  ⟨ordered_of (by cases w <;> decide), .inl ⟨rfl, rfl, by unfold State.el3TrapOff; decide⟩, nofun⟩
theorem access_el12_el3 (w : Bool) : (demoHost .el3).canAccess .cpacrEL12 w .cpacr :=
  ⟨ordered_of (by cases w <;> decide), .inr ⟨rfl, rfl⟩, nofun⟩
theorem access_el12_memory (w : Bool) : (demoNV 0b101).canAccess .cpacrEL12 w .nvMem :=
  ⟨ordered_of (by cases w <;> decide), ⟨rfl, rfl⟩, fun _ => rfl⟩

theorem witness_EveryEncodingDecodesBack :
    (Instr.mrsCpacrEl1 0).WellFormed ∧ (Instr.msrCpacrEl1 31).WellFormed ∧ (Instr.mrsCpacrEl12 31).WellFormed ∧
    (Instr.msrCpacrEl12 0).WellFormed := by decide
theorem witness_DecodedWordEncodesBack : decodeWord 0xD518105F = .ok (.msrCpacrEl1 31) := by decide
theorem demoAt_fetches : (demoAt 0xD5181041 []).Fetches (.msrCpacrEl1 1) :=
  ⟨rfl, by decide, [0x41, 0x10, 0x18, 0xD5], [], by decide, by decide⟩
theorem witness_StepRunsTheDecodedInstruction :
    ((demoAt 0xD5181041 []).insnTurn ∧ (demoAt 0xD5181041 []).Fetches (.msrCpacrEl1 1)) ∧
    ((demoAt 0xD5181041 [.instruction]).insnTurn ∧ (demoAt 0xD5181041 [.instruction]).Fetches (.msrCpacrEl1 1)) :=
  ⟨⟨.inl rfl, demoAt_fetches⟩, .inr ⟨[], rfl⟩, demoAt_fetches.1, demoAt_fetches.2, demoAt_fetches.3⟩
theorem witness_PlacedWordRunsNext : decodeTableWord 32 0xD53D105E = some (.mrsCpacrEl12 30) := by decide
theorem witness_OtherWordsAreRefused :
    (demoAt 0xD5581040 []).insnTurn ∧ (demoAt 0xD5581040 []).env.aarch32 = false ∧
    (demoAt 0xD5581040 []).pc.toNat % 4 = 0 ∧
    (demoAt 0xD5581040 []).mem.readBytes (demoAt 0xD5581040 []).pc.toNat 4 = .ok [0x40, 0x10, 0x58, 0xD5] ∧
    decode [0x40, 0x10, 0x58, 0xD5] = .error (.notSystemMove 0xD5581040) :=
  ⟨.inl rfl, rfl, by decide, by decide, by decide⟩
theorem witness_AArch32FetchIsRefused :
    ({ demo .el1 with env := { Env.quiet with aarch32 := true } }).insnTurn ∧
    ({ demo .el1 with env := { Env.quiet with aarch32 := true } }).env.aarch32 = true := ⟨.inl rfl, rfl⟩
theorem witness_MrsCpacrEl1Completes :
    (demo .el1).canAccess .cpacrEL1 false .cpacr ∧ (demo .el2).canAccess .cpacrEL1 false .cpacr ∧
    (demo .el3).canAccess .cpacrEL1 false .cpacr ∧ (demoHost .el2).canAccess .cpacrEL1 false .cptrEL2 ∧
    (demoNV 0b111).canAccess .cpacrEL1 false .nvMem :=
  ⟨access_el1_cpacr _, access_el2_cpacr _, access_el3_cpacr _, access_el2_cptr _, access_nv_memory _⟩
theorem witness_MsrCpacrEl1Completes :
    (demo .el1).canAccess .cpacrEL1 true .cpacr ∧ (demo .el2).canAccess .cpacrEL1 true .cpacr ∧
    (demo .el3).canAccess .cpacrEL1 true .cpacr ∧ (demoHost .el2).canAccess .cpacrEL1 true .cptrEL2 ∧
    (demoNV 0b111).canAccess .cpacrEL1 true .nvMem :=
  ⟨access_el1_cpacr _, access_el2_cpacr _, access_el3_cpacr _, access_el2_cptr _, access_nv_memory _⟩
theorem witness_MrsCpacrEl12Completes :
    (demoHost .el2).canAccess .cpacrEL12 false .cpacr ∧ (demoHost .el3).canAccess .cpacrEL12 false .cpacr ∧
    (demoNV 0b101).canAccess .cpacrEL12 false .nvMem :=
  ⟨access_el12_el2 _, access_el12_el3 _, access_el12_memory _⟩
theorem witness_MsrCpacrEl12Completes :
    (demoHost .el2).canAccess .cpacrEL12 true .cpacr ∧ (demoHost .el3).canAccess .cpacrEL12 true .cpacr ∧
    (demoNV 0b101).canAccess .cpacrEL12 true .nvMem :=
  ⟨access_el12_el2 _, access_el12_el3 _, access_el12_memory _⟩
/-- The premises of the four pseudocode statements, at every level. -/
theorem witness_Pseudocode (el : EL) (m : Mnemonic) (w : Bool) :
    ¬ (demoHost el).unordered m w ∧ (demoHost el).env.nvMemFault = false :=
  ⟨ordered_of (by cases el <;> rfl), rfl⟩
theorem witness_EveryAccessorIsUndefinedAtEL0 : (demo .el0).env.el = .el0 := rfl
theorem witness_MrsFrame :
    (∃ s', exec (.mrsCpacrEl1 0) (demo .el1) = .next s') ∧ (∃ s', exec (.mrsCpacrEl12 31) (demoHost .el2) = .next s') ∧
    ¬ (demo .el1).watched :=
  ⟨⟨_, rfl⟩, ⟨_, rfl⟩, fun h => nomatch h.1⟩
theorem witness_MsrFrame :
    (∃ s', exec (.msrCpacrEl1 0) (demo .el1) = .next s') ∧ (∃ s', exec (.msrCpacrEl12 31) (demoHost .el2) = .next s') ∧
    ¬ (demo .el1).reaches .cpacrEL1 true .cptrEL2 ∧ ¬ (demo .el1).reaches .cpacrEL1 true .nvMem ∧
    ¬ (demoHost .el2).reaches .cpacrEL1 true .cpacr ∧ ¬ (demo .el1).watched :=
  ⟨⟨_, rfl⟩, ⟨_, rfl⟩, (by rintro ⟨h, -⟩; cases h), (by rintro ⟨-, -, -, h⟩; exact absurd h (by decide)),
    (by rintro (⟨h, -⟩ | ⟨-, -, h⟩ | h) <;> cases h), (by rintro ⟨h, -⟩; cases h)⟩
theorem witness_RegisterThirtyOneIsZero (w : Bool) :
    (demo .el1).canAccess .cpacrEL1 w .cpacr ∧ (demoHost .el2).canAccess .cpacrEL12 w .cpacr ∧
    (demoHost .el3).canAccess .cpacrEL12 w .cpacr := ⟨access_el1_cpacr _, access_el12_el2 _, access_el12_el3 _⟩
theorem witness_WriteThenReadBack :
    30 < 31 ∧ (demo .el1).canAccess .cpacrEL1 true .cpacr ∧ (demo .el1).reaches .cpacrEL1 false .cpacr ∧
    (demoHost .el3).canAccess .cpacrEL12 true .cpacr :=
  ⟨by decide, access_el1_cpacr _, (access_el1_cpacr false).reaches, access_el12_el3 _⟩
theorem witness_FieldsStoreAsWritten :
    Config.impl.featS1POE = true ∧ Config.impl.traceSysreg = true ∧ Config.impl.featSME = true ∧
    Config.impl.featSVE = true ∧ Config.impl.res0Mode = .razWi ∧
    { Config.impl with res0Mode := .stateful }.res0Mode = .stateful := ⟨rfl, rfl, rfl, rfl, rfl, rfl⟩
theorem witness_ReservedBitsNeverMatter :
    (0xFFFFFFFFCCCCFFFF : Word) &&& liveMask Config.impl = (0 : Word) &&& liveMask Config.impl := by decide
theorem demo_inv : (demo .el1).Inv :=
  ⟨⟨.nil, nofun⟩, .nil, fun _ => by decide, nofun, fun _ => ⟨rfl, rfl⟩, nofun⟩
theorem witness_ReservedBitsReadAsZero :
    ((demo .el1).Inv ∧ (demo .el1).impl.res0Mode = .razWi ∧ (demo .el1).canAccess .cpacrEL1 false .cpacr) ∧
    ((demoHost .el3).Inv ∧ (demoHost .el3).impl.res0Mode = .razWi ∧ (demoHost .el3).canAccess .cpacrEL12 false .cpacr) ∧
    30 < 31 :=
  ⟨⟨demo_inv, rfl, access_el1_cpacr _⟩,
    ⟨⟨demo_inv.1, demo_inv.2, demo_inv.3, demo_inv.4, demo_inv.5, demo_inv.6⟩, rfl, access_el12_el3 _⟩, by decide⟩
theorem witness_AArch32NameSharesTheStorage :
    { demo .el1 with schedule := [.outside (.writeA32 0x300000)] }.schedule = .outside (.writeA32 0x300000) :: [] ∧
    (demo .el1).canAccess .cpacrEL1 true .cpacr ∧ (demoHost .el2).canAccess .cpacrEL12 true .cpacr ∧
    { Config.impl with res0Mode := .stateful }.res0Mode = .stateful :=
  ⟨rfl, access_el1_cpacr _, access_el12_el2 _, rfl⟩
theorem witness_BothNamesReachOneMemoryCell : (demoNV 0b111).canAccess .cpacrEL1 true .nvMem ∧ 30 < 31 :=
  ⟨access_nv_memory _, by decide⟩
/-- The same states with a memory access that faults. -/
theorem witness_MemoryFaultEndsTheAccess :
    let f (s : State) : State := { s with env := { s.env with nvMemFault := true } }
    (f (demoNV 0b111)).env.nvMemFault = true ∧ (f (demoNV 0b111)).reaches .cpacrEL1 false .nvMem ∧
    (f (demoNV 0b111)).reaches .cpacrEL1 true .nvMem ∧ (f (demoNV 0b101)).env.nvMemFault = true ∧
    (f (demoNV 0b101)).reaches .cpacrEL12 false .nvMem ∧ (f (demoNV 0b101)).reaches .cpacrEL12 true .nvMem :=
  ⟨rfl, (access_nv_memory false).reaches, (access_nv_memory true).reaches, rfl, ⟨rfl, rfl⟩, ⟨rfl, rfl⟩⟩
theorem witness_RegisterHasNoMemoryView :
    { demo .el1 with schedule := [.outside (.agentWrite 5)] }.schedule = .outside (.agentWrite 5) :: [] ∧
    (demo .el1).canAccess .cpacrEL1 true .cpacr ∧ (demoHost .el2).canAccess .cpacrEL12 true .cpacr :=
  ⟨rfl, access_el1_cpacr _, access_el12_el2 _⟩
theorem witness_HostConfigurationDisablesEveryField :
    { Env.quiet with el := .el0, el2Enabled := true, effE2H := true, effTGE := true }.hostOverride ∧
    TrapClass.fpsimdAccess ≠ .mvfrWrite := ⟨⟨rfl, rfl, rfl⟩, by decide⟩
theorem demo_fieldsAct_el0 : (demo .el0).env.fieldsAct := ⟨.inl rfl, fun h => nomatch h.1⟩
theorem demo_fieldsAct_el1 : (demo .el1).env.fieldsAct := ⟨.inr rfl, fun h => nomatch h.1⟩
theorem fieldTraps_zero_el0 : fieldTraps 0b00 .el0 := .inl ⟨rfl, .inl rfl⟩
theorem fieldTraps_two_el1 : fieldTraps 0b10 .el1 := .inr ⟨rfl, .inr rfl⟩
theorem not_fieldTraps_one_el1 : ¬ fieldTraps 0b01 .el1 := by
  rintro (⟨h, -⟩ | ⟨-, h | h⟩) <;> exact absurd h (by decide)
/-- Where a trap goes to EL2, and where to EL1. -/
theorem witness_routes :
    { Env.quiet with el := .el0, el2Enabled := true, tge := true }.routesToEL2 ∧ ¬ Env.quiet.routesToEL2 :=
  ⟨⟨rfl, rfl⟩, fun h => nomatch h.1⟩
theorem witness_E0poeCheck :
    ((demo .el0).env.fieldsAct ∧ (demo .el0).env.el = .el0 ∧ (demo .el0).env.aarch32 = false ∧
      Config.impl.featS1POE = true ∧ e0poe Config.fieldPos 0 = false) ∧ e0poe Config.fieldPos 0x20000000 = true :=
  ⟨⟨demo_fieldsAct_el0, rfl, rfl, rfl, by decide⟩, by decide⟩
theorem witness_TtaCheck :
    ((demo .el1).env.fieldsAct ∧ Config.impl.traceSysreg = true ∧ tta Config.fieldPos 0x10000000 = true) ∧ tta Config.fieldPos 0 = false :=
  ⟨⟨demo_fieldsAct_el1, rfl, by decide⟩, by decide⟩
theorem witness_SmenCheck :
    ((demo .el1).env.fieldsAct ∧ Config.impl.featSME = true ∧ fieldTraps (smen Config.fieldPos 0x2000000) (demo .el1).env.el) ∧
    ¬ fieldTraps (smen Config.fieldPos 0x1000000) (demo .el1).env.el ∧ { Env.quiet with streamingSVE := true }.streamingSVE = true ∧
    Config.impl.featSVE = true ∧ (demo .el1).env.streamingSVE = false :=
  ⟨⟨demo_fieldsAct_el1, rfl, fieldTraps_two_el1⟩, not_fieldTraps_one_el1, rfl, rfl, rfl⟩
theorem witness_FpenSimdCheck :
    ((demo .el0).env.fieldsAct ∧ fieldTraps (fpen Config.fieldPos 0) (demo .el0).env.el) ∧
    ¬ fieldTraps (fpen Config.fieldPos 0x100000) (demo .el1).env.el :=
  ⟨⟨demo_fieldsAct_el0, fieldTraps_zero_el0⟩, not_fieldTraps_one_el1⟩
theorem witness_ZenCheck :
    ((demo .el1).env.fieldsAct ∧ Config.impl.featSVE = true ∧ fieldTraps (zen Config.fieldPos 0x20000) (demo .el1).env.el) ∧
    (demo .el1).env.streamingSVE = false ∧ ¬ fieldTraps (zen Config.fieldPos 0x10000) (demo .el1).env.el ∧
    Config.impl.fpenSveSmeEL2EC ≠ 0x19 :=
  ⟨⟨demo_fieldsAct_el1, rfl, fieldTraps_two_el1⟩, rfl, not_fieldTraps_one_el1, by decide⟩
/-- The three premises, with FPEN `0b10`, which traps, and `0b01`, which does not, at EL1. -/
theorem witness_FpenVectorCheck :
    ¬ (Config.impl.featSME = true ∧ fieldTraps (smen Config.fieldPos 0x1210000) (demo .el1).env.el) ∧
    ({ Env.quiet with streamingSVE := true }.streamingSVE = true) ∧
    (Config.impl.featSVE = true ∧ (demo .el1).env.streamingSVE = false ∧
      ¬ fieldTraps (zen Config.fieldPos 0x1210000) (demo .el1).env.el) ∧
    ((demo .el1).env.fieldsAct ∧ fieldTraps (fpen Config.fieldPos 0x1210000) (demo .el1).env.el) ∧
    ¬ fieldTraps (fpen Config.fieldPos 0x1110000) (demo .el1).env.el :=
  ⟨fun h => not_fieldTraps_one_el1 h.2, rfl, ⟨rfl, rfl, not_fieldTraps_one_el1⟩,
    ⟨demo_fieldsAct_el1, fieldTraps_two_el1⟩, not_fieldTraps_one_el1⟩
theorem witness_SmenAndZenPrecedeFpen :
    (demo .el0).env.fieldsAct ∧ fieldTraps (fpen Config.fieldPos 0) (demo .el0).env.el ∧
    (Config.impl.featSME = true ∧ fieldTraps (smen Config.fieldPos 0) (demo .el0).env.el) ∧
    ({ Env.quiet with streamingSVE := true }.streamingSVE = true) ∧
    (Config.impl.featSVE = true ∧ (demo .el0).env.streamingSVE = false ∧ fieldTraps (zen Config.fieldPos 0) (demo .el0).env.el) ∧
    fpen Config.fieldPos 0x3000000 = fpen Config.fieldPos 0 ∧ zen Config.fieldPos 0x3000000 = zen Config.fieldPos 0 ∧ e0poe Config.fieldPos 0x3000000 = e0poe Config.fieldPos 0 ∧ tta Config.fieldPos 0x3000000 = tta Config.fieldPos 0 :=
  ⟨demo_fieldsAct_el0, fieldTraps_zero_el0, ⟨rfl, fieldTraps_zero_el0⟩, rfl, ⟨rfl, rfl, fieldTraps_zero_el0⟩,
    by decide, by decide, by decide, by decide⟩
theorem witness_FieldTrapsStayInTheirPlace :
    cpacrCheck .smeInsn (demo .el1).env Config.impl 0 = .trap .el1 0x1D (.value 0) := by decide
theorem witness_UsefulValuesDoWhatTheyAreFor :
    (TrapClass.sveInsn ≠ .mvfrWrite ∧
      e0poe Config.fieldPos 0x23330000 = true ∧ tta Config.fieldPos 0x23330000 = false ∧
      smen Config.fieldPos 0x23330000 = 0b11 ∧ fpen Config.fieldPos 0x23330000 = 0b11 ∧
      zen Config.fieldPos 0x23330000 = 0b11) ∧
    (demo .el0).env.fieldsAct ∧ Config.impl.featSVE = true ∧ Config.impl.featSME = true ∧
    Config.impl.featS1POE = true ∧ ¬ (demo .el0).env.routesToEL2 ∧ (demo .el0).env.streamingSVE = false ∧
    (demo .el0).env.el = .el0 ∧ (demo .el0).env.aarch32 = false :=
  ⟨by decide, demo_fieldsAct_el0, rfl, rfl, rfl, (fun h => nomatch h.1), rfl, rfl, rfl⟩
/-- A trap (FPEN `0b01` at EL0), no trap (at EL1), and the refused class. -/
theorem witness_CheckedInstructionOutcome :
    let s (el : EL) (c : TrapClass) : State := { demo el with schedule := [.outside (.check c 0)] }
    ((s .el0 .fpsimdAccess).schedule = [.outside (.check .fpsimdAccess 0)] ∧
      cpacrCheck .fpsimdAccess (s .el0 .fpsimdAccess).env (s .el0 .fpsimdAccess).impl
        ((s .el0 .fpsimdAccess).checkValue 0) = .trap .el1 0x07 .unspecified) ∧
    ((s .el1 .fpsimdAccess).schedule = [.outside (.check .fpsimdAccess 0)] ∧
      cpacrCheck .fpsimdAccess (s .el1 .fpsimdAccess).env (s .el1 .fpsimdAccess).impl
        ((s .el1 .fpsimdAccess).checkValue 0) = .noTrap) ∧
    (s .el1 .mvfrWrite).schedule = [.outside (.check .mvfrWrite 0)] :=
  ⟨⟨rfl, by decide⟩, ⟨rfl, by decide⟩, rfl⟩
theorem witness_UnsynchronisedWriteMayOrMayNotGovern :
    (demo .el1).canAccess .cpacrEL1 true .cpacr ∧ (demoHost .el2).canAccess .cpacrEL12 true .cpacr :=
  ⟨access_el1_cpacr _, access_el12_el2 _⟩
/-- A write by each name, at EL1 and at EL2 in host mode, and then a `ContextSync`. -/
theorem witness_SynchronisedWriteGoverns :
    let turns : List Turn := [.instruction, .outside .contextSync]
    let hostWrite : State :=
      { demoHost .el2 with mem := Memory.writeBytes [] 0x1000 (wordBytes 0xD51D1041), schedule := turns }
    ((demoAt 0xD5181041 turns).schedule = .instruction :: .outside .contextSync :: [] ∧
      (demoAt 0xD5181041 turns).Fetches (.msrCpacrEl1 1) ∧ (demoAt 0xD5181041 turns).canAccess .cpacrEL1 true .cpacr) ∧
    (hostWrite.schedule = .instruction :: .outside .contextSync :: [] ∧
      hostWrite.Fetches (.msrCpacrEl12 1) ∧ hostWrite.canAccess .cpacrEL12 true .cpacr) :=
  ⟨⟨rfl, ⟨demoAt_fetches.1, demoAt_fetches.2, demoAt_fetches.3⟩,
      ⟨(access_el1_cpacr true).1, (access_el1_cpacr true).2, (access_el1_cpacr true).3⟩⟩,
    ⟨rfl, ⟨rfl, by decide, [0x41, 0x10, 0x1D, 0xD5], [], by decide, by decide⟩,
      ⟨(access_el12_el2 true).1, (access_el12_el2 true).2, (access_el12_el2 true).3⟩⟩⟩
theorem witness_ContextSyncHasTwoEffects :
    { demo .el1 with schedule := [.outside .contextSync] }.schedule = .outside .contextSync :: [] := rfl
theorem witness_WriteThenOtherNameIsRefused :
    (demoHost .el3).watched ∧ (∃ s₁, exec (.msrCpacrEl1 1) (demoHost .el3) = .next s₁) ∧
    (∃ s₁, exec (.msrCpacrEl12 1) (demoHost .el3) = .next s₁) := ⟨⟨rfl, rfl⟩, ⟨_, rfl⟩, ⟨_, rfl⟩⟩
/-- Reads through both names, in both orders. -/
theorem witness_WriteAfterReadsByBothNamesIsRefused :
    (demoHost .el3).watched ∧
    (∃ s₁ s₂, exec (.mrsCpacrEl1 0) (demoHost .el3) = .next s₁ ∧ exec (.mrsCpacrEl12 2) s₁ = .next s₂) ∧
    (∃ s₁ s₂, exec (.mrsCpacrEl12 0) (demoHost .el3) = .next s₁ ∧ exec (.mrsCpacrEl1 2) s₁ = .next s₂) :=
  ⟨⟨rfl, rfl⟩, ⟨_, _, rfl, rfl⟩, ⟨_, _, rfl, rfl⟩⟩
theorem witness_TwoReadsCommuteAtEL3 :
    (demoHost .el3).env.el = .el3 ∧ (demoHost .el3).env.hostEL2 = true ∧ (demoHost .el3).lastWasWrite = false ∧ 0 < 31 ∧
    30 < 31 ∧ 0 ≠ 30 := ⟨rfl, rfl, rfl, by decide, by decide, by decide⟩
theorem witness_EveryStepKeepsTheInvariant :
    (demo .el1).Inv ∧ ({ demo .el1 with schedule := [.outside (.agentWrite 5)] }).Inv ∧
    (∃ s', step { demo .el1 with schedule := [.outside (.agentWrite 5)] } = .next s') ∧
    (∃ s', step (demoAt 0xD5181041 []) = .next s') ∧ (demoAt 0xD5181041 []).Inv :=
  ⟨demo_inv, ⟨demo_inv.1, demo_inv.2, demo_inv.3, demo_inv.4, demo_inv.5, demo_inv.6⟩, ⟨_, rfl⟩, ⟨_, rfl⟩,
    ⟨by decide, .nil, fun _ => by decide, nofun, fun _ => ⟨rfl, rfl⟩, nofun⟩⟩
/-- A reset, the premises on the fields present, and 10_state R11's table, which fits the diagram. -/
theorem witness_ResetDrawsEveryField :
    ({ demo .el1 with schedule := [.outside (.reset ResetDraw.atReset)] }).schedule =
      .outside (.reset ResetDraw.atReset) :: [] ∧
    Config.impl.featS1POE = true ∧ Config.impl.traceSysreg = true ∧ Config.impl.featSME = true ∧
    Config.impl.featSVE = true ∧ fitsDiagram Config.impl.fieldPos := ⟨rfl, rfl, rfl, rfl, rfl, by unfold fitsDiagram; decide⟩
/-- One state for each writer: the two `MSR` forms, the AArch32 name, reset. -/
theorem witness_OnlyItsWritersChangeTheRegister :
    (∃ s', step (demoAt 0xD5181041 []) = .next s' ∧ s'.cpacr ≠ (demoAt 0xD5181041 []).cpacr) ∧
    (∃ s', step ((demoHost .el2).withFetchWord 32 0xD51D1041) = .next s' ∧ s'.cpacr ≠ (demoHost .el2).cpacr) ∧
    (∃ s', step { demo .el1 with schedule := [.outside (.writeA32 0)] } = .next s' ∧ s'.cpacr ≠ (demo .el1).cpacr) ∧
    (∃ s', step { demo .el1 with schedule := [.outside (.reset { ResetDraw.atReset with cpacr := 0 })] } = .next s' ∧
      s'.cpacr ≠ (demo .el1).cpacr) :=
  ⟨⟨_, rfl, by decide⟩, ⟨_, rfl, by decide⟩, ⟨_, rfl, by decide⟩, ⟨_, rfl, by decide⟩⟩
theorem witness_InstructionsKeepLevelAndInputs :
    (demoAt 0xD5181041 []).insnTurn ∧ ∃ s', step (demoAt 0xD5181041 []) = .next s' := ⟨.inl rfl, _, rfl⟩
theorem witness_NoStepChangesParametersOrCode : ∃ s', step (demoAt 0xD5381040 []) = .next s' := ⟨_, rfl⟩
theorem witness_DebugPriorityNeverMattersAtEL2 : (demo .el2).env.el = .el2 := rfl

end Sys2Proof.Machine
end

section
/-! The static parameters (00_scope R6) and instruction memory (20_memory R53): no operation that a step is made of
changes either, so no step does. -/

namespace Sys2Proof.Machine

/-! ## The parts of a step that change neither -/

@[simp] theorem State.turnTaken_impl (s : State) : s.turnTaken.impl = s.impl := rfl
@[simp] theorem State.turnTaken_mem (s : State) : s.turnTaken.mem = s.mem := rfl

@[simp] theorem State.accessed_impl (s : State) (m : Mnemonic) (w : Bool) : (s.accessed m w).impl = s.impl := rfl
@[simp] theorem State.accessed_mem (s : State) (m : Mnemonic) (w : Bool) : (s.accessed m w).mem = s.mem := rfl

@[simp] theorem State.stored_impl (s : State) (p : Storage) (v : Word) : (s.stored p v).impl = s.impl := by
  cases p <;> rfl
@[simp] theorem State.stored_mem (s : State) (p : Storage) (v : Word) : (s.stored p v).mem = s.mem := by
  cases p <;> rfl

@[simp] theorem State.boot_impl (impl : Impl) (mem : Memory) (l : List Turn) (d : ResetDraw) :
    (State.boot impl mem l d).impl = impl := rfl
@[simp] theorem State.boot_mem (impl : Impl) (mem : Memory) (l : List Turn) (d : ResetDraw) :
    (State.boot impl mem l d).mem = mem := rfl

/-! ## Instructions, events, steps -/

/-- A completed read changes a general register and the note of the access alone. -/
theorem ReadDone.impl_mem {m : Mnemonic} {t : Nat} {s s' : State} (h : ReadDone m t s s') :
    s'.impl = s.impl ∧ s'.mem = s.mem := by
  obtain ⟨p, -, rfl⟩ := h
  exact ⟨s.accessed_impl m false, s.accessed_mem m false⟩

/-- None of the three storages that a write can reach is a parameter or instruction memory (60_exceptions R133). -/
theorem WriteDone.impl_mem {m : Mnemonic} {t : Nat} {s s' : State} (h : WriteDone m t s s') :
    s'.impl = s.impl ∧ s'.mem = s.mem := by
  obtain ⟨p, -, rfl⟩ := h
  simp

theorem exec_impl_mem {i : Instr} {s s' : State} (h : exec i s = .next s') : s'.impl = s.impl ∧ s'.mem = s.mem := by
  obtain ⟨_, -, hd⟩ | ⟨_, -, hd⟩ | ⟨_, -, hd⟩ | ⟨_, -, hd⟩ := exec_next h
  · exact hd.impl_mem
  · exact hd.impl_mem
  · exact hd.impl_mem
  · exact hd.impl_mem

/-- Of the events, reset alone builds its state anew, and it is given the old parameters and the old memory
(DESIGN CHOICE, log 30); the others update fields that are neither (logs 15, 29). -/
theorem applyEvent_impl_mem {e : Event} {s s' : State} (h : applyEvent e s = .next s') :
    s'.impl = s.impl ∧ s'.mem = s.mem := by
  obtain ⟨_, -, rfl⟩ | ⟨-, rfl⟩ | ⟨_, _, -, rfl⟩ | ⟨_, -, rfl⟩ | ⟨_, -, rfl⟩ | ⟨_, _, _, -, rfl⟩ | ⟨_, -, rfl⟩ :=
    applyEvent_next h
  case inr.inr.inr.inr.inr.inr => exact ⟨State.boot_impl .., State.boot_mem ..⟩
  all_goals exact ⟨rfl, rfl⟩

theorem step_impl_mem {s s' : State} (h : step s = .next s') : s'.impl = s.impl ∧ s'.mem = s.mem := by
  obtain ⟨-, i, -, hi⟩ | ⟨e, rest, -, he⟩ := step_next h
  · simpa using exec_impl_mem hi
  · simpa using applyEvent_impl_mem he

/-- Settles O55: a step keeps the whole of instruction memory, so every address of it reads as before. -/
theorem noStepChangesParametersOrCode : Obligations.NoStepChangesParametersOrCode := by
  intro s s' h
  obtain ⟨himpl, hmem⟩ := step_impl_mem h
  exact ⟨himpl, fun a => by rw [hmem]⟩

end Sys2Proof.Machine
end

section
/-! What a turn is made of (10_state R25, log 8): the step of each kind of turn, and the completion of an accessor by
either name. Every instruction is a read or a write by one of the two names, so each fact is said for the pair (name,
direction) and not for the four forms. -/

namespace Sys2Proof.Machine

/-! ## The turns -/

/-- The PE's turn, whether the schedule is empty or names it. -/
theorem step_insnTurn {s : State} (h : s.insnTurn) : step s = stepInstruction s.turnTaken := by
  rcases h with hs | ⟨rest, hs⟩
  · have hsame : s.turnTaken = s := by rw [State.turnTaken, hs, List.tail_nil, ← hs]
    rw [hsame, step, hs]
  · simp only [step, hs, State.turnTaken, List.tail_cons]

/-- The outside's turn. -/
theorem step_outside {s : State} {e : Event} {rest : List Turn} (h : s.schedule = .outside e :: rest) :
    step s = applyEvent e { s with schedule := rest } := by
  simp only [step, h]

/-- An event is no turn of the PE's. -/
theorem not_insnTurn_of_outside {s : State} {e : Event} {rest : List Turn} (h : s.schedule = .outside e :: rest) :
    ¬ s.insnTurn := by
  rintro (hs | ⟨_, hs⟩)
  · cases h.symm.trans hs
  · cases h.symm.trans hs

/-- What a step on the PE's turn ran. -/
theorem step_next_insn {s s' : State} (ht : s.insnTurn) (h : step s = .next s') :
    ∃ i, fetch s.turnTaken = .instr i ∧ exec i s.turnTaken = .next s' := by
  obtain ⟨-, hi⟩ | ⟨_, _, hs, -⟩ := step_next h
  · exact hi
  · exact absurd ht (not_insnTurn_of_outside hs)

theorem State.Fetches.fetch_eq {s : State} {i : Instr} (h : s.Fetches i) : fetch s = .instr i := by
  obtain ⟨bytes, rest, hbytes, hdecode⟩ := h.word
  simp [fetch, h.a64, h.aligned, hbytes, hdecode]

/-- A fetch does not look at the schedule. -/
theorem State.Fetches.turnTaken {s : State} {i : Instr} (h : s.Fetches i) : s.turnTaken.Fetches i :=
  ⟨h.a64, h.aligned, h.word⟩

/-! ## The accessors, by name and direction -/

/-- Every instruction is the read or the write by one of the two names (30_encoding R56). -/
theorem instr_cases (i : Instr) : (∃ m t, i = Mnemonic.mrs m t) ∨ ∃ m t, i = Mnemonic.msr m t := by
  cases i with
  | mrsCpacrEl1 t => exact .inl ⟨.cpacrEL1, t, rfl⟩
  | msrCpacrEl1 t => exact .inr ⟨.cpacrEL1, t, rfl⟩
  | mrsCpacrEl12 t => exact .inl ⟨.cpacrEL12, t, rfl⟩
  | msrCpacrEl12 t => exact .inr ⟨.cpacrEL12, t, rfl⟩

/-- Where the pseudocode of the access by a name ends (41_register_access R100 to R103). -/
def accessRoute (s : State) (m : Mnemonic) (w : Bool) : Route :=
  match m with
  | .cpacrEL1 => routeCpacrEL1 s.impl s.env (s.hfg w)
  | .cpacrEL12 => routeCpacrEL12 s.impl s.env

theorem accessRoute_iff (s : State) (m : Mnemonic) (w : Bool) (p : Storage) :
    accessRoute s m w = p.route ↔ s.reaches m w p := by
  cases m with
  | cpacrEL1 => exact routeCpacrEL1_iff s w p
  | cpacrEL12 => exact routeCpacrEL12_iff s w p

theorem exec_mrs (m : Mnemonic) (t : Nat) (s : State) :
    exec (m.mrs t) s =
      if s.mnemonicHazard m false then .refused .crossMnemonic
      else readRoute (accessRoute s m false) t (s.noteAccess m false) := by
  cases m <;> rfl

theorem exec_msr (m : Mnemonic) (t : Nat) (s : State) :
    exec (m.msr t) s =
      if s.mnemonicHazard m true then .refused .crossMnemonic
      else writeRoute (accessRoute s m true) t (s.noteAccess m true) := by
  cases m <;> rfl

/-- A read that can be made completes: `X[t]` takes what the storage holds (41_register_access R113). -/
theorem exec_mrs_of_canAccess {m : Mnemonic} {s : State} {p : Storage} (t : Nat) (h : s.canAccess m false p) :
    exec (m.mrs t) s = .next { s.accessed m false with x := setX t (s.held p) s.x } := by
  have hroute : accessRoute s m false = p.route := (accessRoute_iff s m false p).mpr h.reaches
  rw [exec_mrs, State.mnemonicHazard_false h.ordered, hroute, ← State.noteAccess_advancePC]
  exact (readRoute_of_storage (s := s.noteAccess m false) t h.noFault).trans (by cases p <;> rfl)

/-- A write that can be made completes: the storage takes `X[t]` (41_register_access R112). -/
theorem exec_msr_of_canAccess {m : Mnemonic} {s : State} {p : Storage} (t : Nat) (h : s.canAccess m true p) :
    exec (m.msr t) s = .next ((s.accessed m true).stored p (s.readX t)) := by
  have hroute : accessRoute s m true = p.route := (accessRoute_iff s m true p).mpr h.reaches
  rw [exec_msr, State.mnemonicHazard_false h.ordered, hroute, ← State.noteAccess_advancePC]
  exact (writeRoute_of_storage (s := s.noteAccess m true) t h.noFault).trans (by cases p <;> rfl)

theorem exec_mrs_ordered {m : Mnemonic} {t : Nat} {s s' : State} (h : exec (m.mrs t) s = .next s') :
    ¬ s.unordered m false := by
  rw [← State.mnemonicHazard_iff]
  intro hazard
  simp [exec_mrs, hazard] at h

theorem exec_msr_ordered {m : Mnemonic} {t : Nat} {s s' : State} (h : exec (m.msr t) s = .next s') :
    ¬ s.unordered m true := by
  rw [← State.mnemonicHazard_iff]
  intro hazard
  simp [exec_msr, hazard] at h

/-- Everything an instruction that answers a next state was: an ordered read or an ordered write, by one of the names. -/
theorem exec_next_access {i : Instr} {s s' : State} (h : exec i s = .next s') :
    (∃ m t, i = Mnemonic.mrs m t ∧ ¬ s.unordered m false ∧ ReadDone m t s s') ∨
    (∃ m t, i = Mnemonic.msr m t ∧ ¬ s.unordered m true ∧ WriteDone m t s s') := by
  obtain ⟨m, t, rfl⟩ | ⟨m, t, rfl⟩ := instr_cases i
  · exact .inl ⟨m, t, rfl, exec_mrs_ordered h, exec_mrs_next h⟩
  · exact .inr ⟨m, t, rfl, exec_msr_ordered h, exec_msr_next h⟩

/-! ## What the parts of an access leave -/

@[simp] theorem State.turnTaken_env (s : State) : s.turnTaken.env = s.env := rfl
@[simp] theorem State.turnTaken_pc (s : State) : s.turnTaken.pc = s.pc := rfl

@[simp] theorem State.accessed_env (s : State) (m : Mnemonic) (w : Bool) : (s.accessed m w).env = s.env := rfl
@[simp] theorem State.accessed_pc (s : State) (m : Mnemonic) (w : Bool) : (s.accessed m w).pc = s.pc + 4 := rfl
@[simp] theorem State.accessed_cpacr (s : State) (m : Mnemonic) (w : Bool) : (s.accessed m w).cpacr = s.cpacr := rfl

@[simp] theorem State.stored_env (s : State) (p : Storage) (v : Word) : (s.stored p v).env = s.env := by
  cases p <;> rfl
@[simp] theorem State.stored_pc (s : State) (p : Storage) (v : Word) : (s.stored p v).pc = s.pc := by
  cases p <;> rfl

/-- Of the three storages, the register alone takes a write of the register. -/
theorem State.stored_cpacr_of_ne (s : State) {p : Storage} (v : Word) (h : p ≠ .cpacr) :
    (s.stored p v).cpacr = s.cpacr := by
  cases p with
  | cpacr => exact absurd rfl h
  | cptrEL2 => rfl
  | nvMem => rfl

theorem ReadDone.env_pc {m : Mnemonic} {t : Nat} {s s' : State} (h : ReadDone m t s s') :
    s'.env = s.env ∧ s'.pc = s.pc + 4 := by
  obtain ⟨p, -, rfl⟩ := h
  exact ⟨s.accessed_env m false, s.accessed_pc m false⟩

theorem WriteDone.env_pc {m : Mnemonic} {t : Nat} {s s' : State} (h : WriteDone m t s s') :
    s'.env = s.env ∧ s'.pc = s.pc + 4 := by
  obtain ⟨p, -, rfl⟩ := h
  simp

theorem ReadDone.cpacr_eq {m : Mnemonic} {t : Nat} {s s' : State} (h : ReadDone m t s s') : s'.cpacr = s.cpacr := by
  obtain ⟨p, -, rfl⟩ := h
  exact s.accessed_cpacr m false

/-- A write that changes the register reached it. -/
theorem WriteDone.reaches_of_cpacr_ne {m : Mnemonic} {t : Nat} {s s' : State} (h : WriteDone m t s s')
    (hne : s'.cpacr ≠ s.cpacr) : s.reaches m true .cpacr := by
  obtain ⟨p, hp, rfl⟩ := h
  by_cases hreg : p = .cpacr
  · exact hreg ▸ hp
  · exact absurd (by rw [State.stored_cpacr_of_ne _ _ hreg, State.accessed_cpacr]) hne

end Sys2Proof.Machine
end

section
/-! The invariant (10_state R13, 20_memory R48, R49): each operation that a step is made of keeps it. -/

namespace Sys2Proof.Machine

/-- The invariant speaks of no input, no pc, no general register, neither opaque cell and not of the schedule. -/
theorem State.Inv.with_others {s : State} (h : s.Inv) (env : Env) (pc : Word) (x : Vector Word 31) (cptr nv : Word)
    (l : List Turn) : State.Inv { s with env := env, pc := pc, x := x, cptrEL2 := cptr, nvMem := nv, schedule := l } :=
  ⟨h.mem_wf, h.stale_wf, h.cpacr_res0, h.stale_res0, h.note, h.note_reads⟩

/-- A write of the register: the filter makes the new value obey the RES0 rule, and the old value, which becomes
pending, obeyed it already. -/
theorem State.Inv.writeCpacr {s : State} (h : s.Inv) (v : Word) : (s.writeCpacr v).Inv where
  mem_wf := h.mem_wf
  stale_wf := insertStale_wf h.stale_wf
  cpacr_res0 := storeFilter_reservedClear s.impl v
  stale_res0 := by
    intro w hw
    obtain rfl | hw := mem_insertStale.mp hw
    · exact h.cpacr_res0
    · exact h.stale_res0 w hw
  note := h.note
  note_reads := h.note_reads

theorem State.Inv.stored {s : State} (h : s.Inv) (p : Storage) (v : Word) : (s.stored p v).Inv := by
  cases p with
  | cpacr => exact h.writeCpacr v
  | cptrEL2 => exact h.with_others s.env s.pc s.x v s.nvMem s.schedule
  | nvMem => exact h.with_others s.env s.pc s.x s.cptrEL2 v s.schedule

/-- After an ordered access, accesses through both names are reads: an ordered write follows none through the other
name, and an ordered read through the other name follows no write. -/
theorem State.Inv.accessed_note_reads {s : State} {m : Mnemonic} {w : Bool} (h : s.Inv) (ho : ¬ s.unordered m w)
    (hb : (s.accessed m w).bothNames = true) : (s.accessed m w).lastWasWrite = false := by
  by_cases hw : s.watched
  · have hw' : s.env.el = .el3 ∧ s.env.effE2H = true := hw
    have hboth : s.bothNames = true ∨ s.lastMn = some m.other := by simpa [State.accessed, hw'] using hb
    have hread : w = false := by
      rw [← Bool.not_eq_true]
      intro hwrite
      exact ho ⟨hw, hboth.elim (fun hb => .inr ⟨hb, hwrite⟩) (fun hl => .inl ⟨hl, .inl hwrite⟩)⟩
    have hkept : s.lastWasWrite = false := by
      obtain hb | hl := hboth
      · exact h.note_reads hb
      · rw [← Bool.not_eq_true]
        exact fun hlw => ho ⟨hw, .inl ⟨hl, .inr hlw⟩⟩
    simp [State.accessed, hw', hread, hkept]
  · have hw' : ¬ (s.env.el = .el3 ∧ s.env.effE2H = true) := hw
    simp only [State.accessed, if_neg hw'] at hb ⊢
    exact h.note_reads hb

theorem State.Inv.accessed {s : State} {m : Mnemonic} {w : Bool} (h : s.Inv) (ho : ¬ s.unordered m w) :
    (s.accessed m w).Inv where
  mem_wf := h.mem_wf
  stale_wf := h.stale_wf
  cpacr_res0 := h.cpacr_res0
  stale_res0 := h.stale_res0
  note := by
    by_cases hw : s.env.el = .el3 ∧ s.env.effE2H = true
    · simp [State.accessed, hw]
    · simpa only [State.accessed, if_neg hw] using h.note
  note_reads := h.accessed_note_reads ho

theorem State.Inv.contextSync {s : State} (h : s.Inv) : s.contextSync.Inv :=
  ⟨h.mem_wf, .nil, h.cpacr_res0, nofun, fun _ => ⟨rfl, rfl⟩, nofun⟩

/-- Reset leaves the invariant whatever was drawn (10_state R35, 70_reset_and_hazards R150). -/
theorem State.boot_inv (impl : Impl) {mem : Memory} (hm : mem.wf) (l : List Turn) (d : ResetDraw) :
    (State.boot impl mem l d).Inv :=
  ⟨hm, .nil, storeFilter_reservedClear impl d.cpacr, nofun, fun _ => ⟨rfl, rfl⟩, nofun⟩

theorem exec_inv {i : Instr} {s s' : State} (hs : s.Inv) (h : exec i s = .next s') : s'.Inv := by
  obtain ⟨m, t, -, ho, p, -, rfl⟩ | ⟨m, t, -, ho, p, -, rfl⟩ := exec_next_access h
  · exact (hs.accessed ho).with_others s.env (s.pc + 4) (setX t (s.held p) s.x) s.cptrEL2 s.nvMem s.schedule
  · exact (hs.accessed ho).stored p (s.readX t)

theorem applyEvent_inv {e : Event} {s s' : State} (hs : s.Inv) (h : applyEvent e s = .next s') : s'.Inv := by
  obtain ⟨env, -, rfl⟩ | ⟨-, rfl⟩ | ⟨_, _, -, rfl⟩ | ⟨v, -, rfl⟩ | ⟨v, -, rfl⟩ | ⟨x, pc, c, -, rfl⟩ | ⟨d, -, rfl⟩ :=
    applyEvent_next h
  · exact hs.with_others env s.pc s.x s.cptrEL2 s.nvMem s.schedule
  · exact hs.contextSync
  · exact hs
  · exact hs.stored .nvMem v
  · exact hs.writeCpacr (s.cpacr.extractLsb' 32 32 ++ v)
  · exact hs.with_others s.env pc x c s.nvMem s.schedule
  · exact State.boot_inv s.impl hs.mem_wf s.schedule d

/-- Settles O49. -/
theorem everyStepKeepsTheInvariant : Obligations.EveryStepKeepsTheInvariant := by
  intro s s' hs h
  have hs₀ : s.turnTaken.Inv := hs.with_others s.env s.pc s.x s.cptrEL2 s.nvMem s.schedule.tail
  obtain ⟨-, i, -, hi⟩ | ⟨e, rest, -, he⟩ := step_next h
  · exact exec_inv hs₀ hi
  · exact applyEvent_inv hs₀ he

/-- Settles O50. -/
theorem resetHasTheInvariant : Obligations.ResetHasTheInvariant :=
  State.boot_inv Config.impl State.reset_mem_wf [] ResetDraw.atReset

end Sys2Proof.Machine
end

section
/-! The fields of the register (10_state R11 to R20): what a write stores, what a check reads, and how a value is put
together from its fields. -/

namespace Sys2Proof.Machine

/-! ## What is stored -/

/-- Settles O23. -/
theorem fieldsStoreAsWritten : Obligations.FieldsStoreAsWritten := by
  intro impl v
  obtain ⟨he0poe, htta, hsmen, hfpen, hzen⟩ := fields_eq (storeFilter_live impl v)
  exact ⟨he0poe, htta, hsmen, hfpen, hzen, storeFilter_reservedClear impl v, fun h => storeFilter_stateful h v⟩

/-! ## What a check reads: each looks at its field only when the field is present -/

theorem checkE0POE_congr {impl : Impl} {v w : Word} (env : Env)
    (h : impl.featS1POE = true → e0poe impl.fieldPos v = e0poe impl.fieldPos w) :
    checkE0POE env impl v = checkE0POE env impl w := by
  cases hp : impl.featS1POE with
  | false => simp [checkE0POE, hp]
  | true => simp only [checkE0POE, h hp]

theorem checkTTA_congr {impl : Impl} {v w : Word} (env : Env) (ec : BitVec 6)
    (h : impl.traceSysreg = true → tta impl.fieldPos v = tta impl.fieldPos w) :
    checkTTA env impl v ec = checkTTA env impl w ec := by
  cases hp : impl.traceSysreg with
  | false => simp [checkTTA, hp]
  | true => simp only [checkTTA, h hp]

theorem checkSMEN_congr {impl : Impl} {v w : Word} (env : Env)
    (h : impl.featSME = true → smen impl.fieldPos v = smen impl.fieldPos w) :
    checkSMEN env impl v = checkSMEN env impl w := by
  cases hp : impl.featSME with
  | false => simp [checkSMEN, hp]
  | true => simp only [checkSMEN, h hp]

theorem checkZEN_congr {impl : Impl} {v w : Word} (env : Env)
    (h : impl.featSVE = true → zen impl.fieldPos v = zen impl.fieldPos w) :
    checkZEN env impl v = checkZEN env impl w := by
  cases hp : impl.featSVE with
  | false => simp [checkZEN, hp]
  | true => simp only [checkZEN, h hp]

/-- Settles O24: each class's check is built from the checks of single fields, and each of these sees only a field that
is present. -/
theorem reservedBitsNeverMatter : Obligations.ReservedBitsNeverMatter := by
  intro c env impl v w h
  obtain ⟨he0poe, htta, hsmen, hfpen, hzen⟩ := fields_eq h
  have hSMEN := checkSMEN_congr env hsmen
  have hZEN := checkZEN_congr env hzen
  have hFPENVector : checkFPENVector env impl v = checkFPENVector env impl w := by simp only [checkFPENVector, hfpen]
  cases c with
  | porEL0Access => exact checkE0POE_congr env he0poe
  | traceA64 => exact checkTTA_congr env 0x18 htta
  | traceA32MrcMcr => exact checkTTA_congr env 0x05 htta
  | traceA32MrrcMcrr => exact checkTTA_congr env 0x0C htta
  | smeInsn => simp only [cpacrCheck, hSMEN, hFPENVector]
  | sveInsn => simp only [cpacrCheck, hSMEN, hZEN, hFPENVector]
  | svcrAccess => exact hSMEN
  | smcrEL1Access => exact hSMEN
  | zcrEL1Access => exact hZEN
  | fpsimdAccess => simp only [cpacrCheck, checkFPENSimd, hfpen]
  | mvfrWrite => rfl
  | other => rfl

/-! ## The AArch32 name -/

/-- Bits [31:0] of a stored value, where they belong to fields present. -/
theorem storeFilter_live_low (impl : Impl) (v : Word) :
    (storeFilter impl v).extractLsb' 0 32 &&& (liveMask impl).setWidth 32 =
      v.setWidth 32 &&& (liveMask impl).setWidth 32 := by
  rw [← BitVec.setWidth_eq_extractLsb' (by decide), ← BitVec.setWidth_and, storeFilter_live, BitVec.setWidth_and]

theorem extract_low_append (hi lo : BitVec 32) : (hi ++ lo : Word).extractLsb' 0 32 = lo := by
  apply BitVec.eq_of_getLsbD_eq
  intro i h
  simp only [BitVec.getLsbD_extractLsb', BitVec.getLsbD_append, Nat.zero_add, h, decide_true, Bool.true_and, if_true]

theorem extract_high_append (hi lo : BitVec 32) : (hi ++ lo : Word).extractLsb' 32 32 = hi := by
  apply BitVec.eq_of_getLsbD_eq
  intro i h
  simp only [BitVec.getLsbD_extractLsb', BitVec.getLsbD_append, h, decide_true, Bool.true_and,
    Nat.not_lt.mpr (Nat.le_add_right 32 i), if_false, Nat.add_sub_cancel_left]

/-- Settles O26. -/
theorem aarch32NameSharesTheStorage : Obligations.AArch32NameSharesTheStorage := by
  refine ⟨fun s v rest h => ?_, fun m s t h => ?_⟩
  · refine ⟨State.writeCpacrA32 { s with schedule := rest } v, step_outside h, storeFilter_live _ _, fun hmode => ?_⟩
    simp only [State.cpacrA32, State.writeCpacrA32_cpacr, storeFilter_stateful hmode]
    exact ⟨extract_low_append _ _, extract_high_append _ _⟩
  · refine ⟨_, exec_msr_of_canAccess t h, storeFilter_live_low s.impl (s.readX t), fun hmode => ?_⟩
    have hcpacr : ((s.accessed m true).stored .cpacr (s.readX t)).cpacr = s.readX t := storeFilter_stateful hmode _
    rw [State.cpacrA32, hcpacr, ← BitVec.setWidth_eq_extractLsb' (by decide)]

/-! ## A value from its fields -/

/-- The value that has `u` at a position and zeros elsewhere. -/
def placeField {k : Nat} (u : BitVec k) (pos : Nat) : Word := u.setWidth 64 <<< pos

theorem getLsbD_placeField {k : Nat} (u : BitVec k) (pos n : Nat) :
    (placeField u pos).getLsbD n = (decide (n < 64) && (decide (pos ≤ n) && u.getLsbD (n - pos))) := by
  simp only [placeField, BitVec.getLsbD_shiftLeft, BitVec.getLsbD_setWidth]
  by_cases hn : n < 64
  · by_cases hp : pos ≤ n
    · simp [hn, hp, Nat.not_lt.mpr hp, show n - pos < 64 by omega]
    · simp [hp, Nat.not_le.mp hp]
  · simp [hn]

/-- A placed field leaves every bit outside it zero. -/
theorem getLsbD_placeField_outside {k : Nat} (u : BitVec k) {pos n : Nat} (h : n < pos ∨ pos + k ≤ n) :
    (placeField u pos).getLsbD n = false := by
  rw [getLsbD_placeField]
  obtain h | h := h
  · simp [Nat.not_le.mpr h]
  · simp [BitVec.getLsbD_of_ge u (n - pos) (by omega)]

/-- A flag placed in the register is read back. -/
theorem getLsbD_placeField_ofBool (a : Bool) {pos : Nat} (h : pos < 64) :
    (placeField (BitVec.ofBool a) pos).getLsbD pos = a := by
  rw [getLsbD_placeField]
  simp [h]

/-- A field placed in the register is read back. -/
theorem extract_placeField_same {k : Nat} (u : BitVec k) {pos : Nat} (h : pos + k ≤ 64) :
    (placeField u pos).extractLsb' pos k = u := by
  apply BitVec.eq_of_getLsbD_eq
  intro i hi
  rw [BitVec.getLsbD_extractLsb', getLsbD_placeField]
  simp [hi, show pos + i < 64 by omega]

/-- A field disjoint from the placed one reads as zero. -/
theorem extract_placeField_disjoint {k : Nat} (u : BitVec k) {pos lo j : Nat} (h : lo + j ≤ pos ∨ pos + k ≤ lo) :
    (placeField u pos).extractLsb' lo j = 0#j := by
  apply BitVec.eq_of_getLsbD_eq
  intro i hi
  rw [BitVec.getLsbD_extractLsb', getLsbD_placeField_outside u (by omega)]
  simp

/-- The value of the register with these fields, and zeros elsewhere. -/
def valueOfFields (pos : FieldPos) (a b : Bool) (x y z : BitVec 2) : Word :=
  placeField (BitVec.ofBool a) pos.e0poe ||| placeField (BitVec.ofBool b) pos.tta ||| placeField x pos.smen |||
    placeField y pos.fpen ||| placeField z pos.zen

/-- Where the table fits the source's diagram the fields are disjoint, so each has the value placed. -/
theorem fields_valueOfFields {pos : FieldPos} (h : fitsDiagram pos) (a b : Bool) (x y z : BitVec 2) :
    e0poe pos (valueOfFields pos a b x y z) = a ∧ tta pos (valueOfFields pos a b x y z) = b ∧
    smen pos (valueOfFields pos a b x y z) = x ∧ fpen pos (valueOfFields pos a b x y z) = y ∧
    zen pos (valueOfFields pos a b x y z) = z := by
  obtain ⟨hzen, hfpen, hsmen, htta, he0poe, htop⟩ := h
  simp only [e0poe, tta, smen, fpen, zen, valueOfFields, BitVec.getLsbD_or, BitVec.extractLsb'_or]
  refine ⟨?_, ?_, ?_, ?_, ?_⟩
  · simp (disch := omega) only [getLsbD_placeField_ofBool, getLsbD_placeField_outside, Bool.or_false]
  · simp (disch := omega) only [getLsbD_placeField_ofBool, getLsbD_placeField_outside, Bool.or_false, Bool.false_or]
  all_goals simp (disch := omega) only [extract_placeField_same, extract_placeField_disjoint, BitVec.or_zero,
    BitVec.zero_or]

/-- Settles O52: the draw whose fields are the values wanted is stored with these fields (10_state R13). -/
theorem resetDrawsEveryField : Obligations.ResetDrawsEveryField := by
  refine ⟨fun s rest d h => ⟨_, step_outside h, rfl, rfl, rfl, rfl, rfl, rfl, rfl, rfl, rfl, rfl, rfl⟩,
    fun impl a b x y z hfits => ⟨valueOfFields impl.fieldPos a b x y z, ?_⟩⟩
  obtain ⟨ke0poe, ktta, ksmen, kfpen, kzen⟩ := fields_eq (storeFilter_live impl (valueOfFields impl.fieldPos a b x y z))
  obtain ⟨he0poe, htta, hsmen, hfpen, hzen⟩ := fields_valueOfFields hfits a b x y z
  exact ⟨fun p => (ke0poe p).trans he0poe, fun p => (ktta p).trans htta, fun p => (ksmen p).trans hsmen,
    kfpen.trans hfpen, fun p => (kzen p).trans hzen⟩

end Sys2Proof.Machine
end

section
/-! The register file, the pc and the register over a step (10_state R19 to R36). -/

namespace Sys2Proof.Machine

/-- Of the events, the write through the AArch32 name and reset alone are given another value for the register. -/
theorem applyEvent_cpacr_ne {e : Event} {s s' : State} (h : applyEvent e s = .next s') (hne : s'.cpacr ≠ s.cpacr) :
    (∃ v, e = .writeA32 v) ∨ ∃ d, e = .reset d := by
  obtain ⟨_, -, rfl⟩ | ⟨-, rfl⟩ | ⟨_, _, -, rfl⟩ | ⟨_, -, rfl⟩ | ⟨v, he, -⟩ | ⟨_, _, _, -, rfl⟩ | ⟨d, he, -⟩ :=
    applyEvent_next h
  case inr.inr.inr.inr.inl => exact .inl ⟨v, he⟩
  case inr.inr.inr.inr.inr.inr => exact .inr ⟨d, he⟩
  all_goals exact absurd rfl hne

/-- Settles O53: a read keeps the register, and a write that changes it reached it. -/
theorem onlyItsWritersChangeTheRegister : Obligations.OnlyItsWritersChangeTheRegister := by
  intro s s' h hne
  obtain ⟨ht, i, hi, hx⟩ | ⟨e, rest, hs, he⟩ := step_next h
  · obtain ⟨m, t, rfl, -, hd⟩ | ⟨m, t, rfl, -, hd⟩ := exec_next_access hx
    · exact absurd hd.cpacr_eq hne
    · have hreach : s.turnTaken.reaches m true .cpacr := hd.reaches_of_cpacr_ne hne
      cases m with
      | cpacrEL1 => exact .inl ⟨ht, t, hi, hreach⟩
      | cpacrEL12 => exact .inr (.inl ⟨ht, t, hi, hreach⟩)
  · obtain ⟨v, rfl⟩ | ⟨d, rfl⟩ := applyEvent_cpacr_ne he hne
    · exact .inr (.inr (.inl ⟨v, rest, hs⟩))
    · exact .inr (.inr (.inr ⟨d, rest, hs⟩))

theorem exec_env_pc {i : Instr} {s s' : State} (h : exec i s = .next s') : s'.env = s.env ∧ s'.pc = s.pc + 4 := by
  obtain ⟨_, _, -, -, hd⟩ | ⟨_, _, -, -, hd⟩ := exec_next_access h
  · exact hd.env_pc
  · exact hd.env_pc

/-- Settles O54. -/
theorem instructionsKeepLevelAndInputs : Obligations.InstructionsKeepLevelAndInputs := by
  intro s s' ht h
  obtain ⟨i, -, hi⟩ := step_next_insn ht h
  simpa using exec_env_pc hi

/-- Settles O6. -/
theorem stepRunsTheDecodedInstruction : Obligations.StepRunsTheDecodedInstruction := by
  intro s i ht hf
  rw [step_insnTurn ht, stepInstruction, hf.turnTaken.fetch_eq]

/-- Settles O21. -/
theorem registerThirtyOneIsZero : Obligations.RegisterThirtyOneIsZero := by
  have hread (s : State) : s.readX 31 = 0 := getX_zero le_rfl s.x
  have hdiscard (v : Word) (x : Vector Word 31) : setX 31 v x = x := setX_zero le_rfl v x
  refine ⟨hread, fun s v => ?_, fun m s p h => ?_, fun m s p h => ?_⟩
  · rw [State.writeX, hdiscard]
  · rw [exec_msr_of_canAccess 31 h, hread]
  · rw [exec_mrs_of_canAccess 31 h, hdiscard]
    rfl

/-- Settles O25: the value read is the register's, which the invariant says is zero there. -/
theorem reservedBitsReadAsZero : Obligations.ReservedBitsReadAsZero := by
  intro m t s hs hmode h
  refine ⟨_, exec_mrs_of_canAccess t h, fun ht => ?_⟩
  rw [State.readX, getX_setX_same ht]
  exact hs.cpacr_res0 hmode

/-- Settles O51. -/
theorem resetLeavesNothingPending : Obligations.ResetLeavesNothingPending :=
  ⟨rfl, rfl, rfl, rfl, rfl, fun _ => rfl⟩

end Sys2Proof.Machine
end

section
/-! The order of accesses through both names at EL3 (20_memory R47, R48, 70_reset_and_hazards R157, decision D12): when an
accessor is refused, and what the accesses before it have noted. -/

namespace Sys2Proof.Machine

/-! ## The refusal, by name and direction -/

/-- Past the hazard nothing is refused: an accessor completes or raises (41_register_access R100 to R103). -/
theorem readRoute_ne_refused (r : Route) (t : Nat) (s : State) (why : Refusal) : readRoute r t s ≠ .refused why := by
  cases r with
  | nvMem => cases h : s.env.nvMemFault <;> simp [readRoute, raise, h]
  | _ => simp [readRoute, raise]

theorem writeRoute_ne_refused (r : Route) (t : Nat) (s : State) (why : Refusal) : writeRoute r t s ≠ .refused why := by
  cases r with
  | nvMem => cases h : s.env.nvMemFault <;> simp [writeRoute, raise, h]
  | _ => simp [writeRoute, raise]

theorem exec_mrs_refused_iff (m : Mnemonic) (t : Nat) (s : State) :
    exec (m.mrs t) s = .refused .crossMnemonic ↔ s.unordered m false := by
  rw [exec_mrs, ← State.mnemonicHazard_iff]
  cases s.mnemonicHazard m false <;> simp [readRoute_ne_refused]

theorem exec_msr_refused_iff (m : Mnemonic) (t : Nat) (s : State) :
    exec (m.msr t) s = .refused .crossMnemonic ↔ s.unordered m true := by
  rw [exec_msr, ← State.mnemonicHazard_iff]
  cases s.mnemonicHazard m true <;> simp [writeRoute_ne_refused]

/-- Settles O46. -/
theorem refusedExactlyWhenUnordered : Obligations.RefusedExactlyWhenUnordered := fun t s =>
  ⟨exec_mrs_refused_iff .cpacrEL1 t s, exec_msr_refused_iff .cpacrEL1 t s,
    exec_mrs_refused_iff .cpacrEL12 t s, exec_msr_refused_iff .cpacrEL12 t s⟩

/-! ## What an access notes -/

theorem State.accessed_lastMn {s : State} (hw : s.watched) (m : Mnemonic) (w : Bool) :
    (s.accessed m w).lastMn = some m :=
  if_pos hw

theorem State.accessed_lastWasWrite {s : State} (hw : s.watched) (m : Mnemonic) (w : Bool) :
    (s.accessed m w).lastWasWrite = (w || (decide (s.lastMn = some m) && s.lastWasWrite)) :=
  if_pos hw

theorem State.accessed_bothNames {s : State} (hw : s.watched) (m : Mnemonic) (w : Bool) :
    (s.accessed m w).bothNames = (s.bothNames || decide (s.lastMn = some m.other)) :=
  if_pos hw

/-- A read notes no write. -/
theorem State.accessed_read_lastWasWrite {s : State} (h : s.lastWasWrite = false) (m : Mnemonic) :
    (s.accessed m false).lastWasWrite = false := by
  simp [State.accessed, h]

@[simp] theorem State.stored_lastMn (s : State) (p : Storage) (v : Word) : (s.stored p v).lastMn = s.lastMn := by
  cases p <;> rfl
@[simp] theorem State.stored_lastWasWrite (s : State) (p : Storage) (v : Word) :
    (s.stored p v).lastWasWrite = s.lastWasWrite := by
  cases p <;> rfl

theorem State.watched_of_env_eq {s s' : State} (h : s'.env = s.env) (hw : s.watched) : s'.watched := by
  rwa [State.watched, h]

theorem WriteDone.notes_write {m : Mnemonic} {t : Nat} {s s' : State} (h : WriteDone m t s s') (hw : s.watched) :
    s'.lastMn = some m ∧ s'.lastWasWrite = true := by
  obtain ⟨p, -, rfl⟩ := h
  simp [State.accessed_lastMn hw, State.accessed_lastWasWrite hw]

theorem ReadDone.lastMn_eq {m : Mnemonic} {t : Nat} {s s' : State} (h : ReadDone m t s s') (hw : s.watched) :
    s'.lastMn = some m := by
  obtain ⟨p, -, rfl⟩ := h
  exact State.accessed_lastMn hw m false

/-- A read after an access through the other name is the second name (log 14). -/
theorem ReadDone.bothNames_of_lastMn_other {m : Mnemonic} {t : Nat} {s s' : State} (h : ReadDone m t s s')
    (hw : s.watched) (hl : s.lastMn = some m.other) : s'.bothNames = true := by
  obtain ⟨p, -, rfl⟩ := h
  refine (State.accessed_bothNames hw m false).trans ?_
  simp [hl]

/-! ## Which accesses are then ordered -/

/-- At any level but EL3 every access is ordered. -/
theorem State.not_unordered_of_el_ne {s : State} (h : s.env.el ≠ .el3) (m : Mnemonic) (w : Bool) :
    ¬ s.unordered m w := by
  rintro ⟨⟨hel, -⟩, -⟩
  exact h hel

/-- A read is ordered against everything but a write. -/
theorem State.not_unordered_read {s : State} (h : s.lastWasWrite = false) (m : Mnemonic) : ¬ s.unordered m false := by
  simp [State.unordered, h]

/-- After a `ContextSync` no access is noted, so every access is ordered (20_memory R50). -/
theorem State.not_unordered_contextSync (s : State) (m : Mnemonic) (w : Bool) : ¬ s.contextSync.unordered m w := by
  simp [State.unordered]

theorem WriteDone.unordered_other {m : Mnemonic} {t : Nat} {s s' : State} (h : WriteDone m t s s') (hw : s.watched)
    (w : Bool) : s'.unordered m.other w := by
  obtain ⟨hmn, hwrite⟩ := h.notes_write hw
  exact ⟨State.watched_of_env_eq h.env_pc.1 hw, .inl ⟨by rw [hmn, other_other], .inr hwrite⟩⟩

/-- Settles O47. -/
theorem writeThenOtherNameIsRefused : Obligations.WriteThenOtherNameIsRefused := by
  intro m t d s s₁ hw h
  have hd : WriteDone m t s s₁ := exec_msr_next h
  rw [ne_eq, ne_eq, exec_mrs_refused_iff, exec_msr_refused_iff, exec_mrs_refused_iff, exec_msr_refused_iff]
  exact ⟨hd.unordered_other hw false, hd.unordered_other hw true,
    s₁.not_unordered_contextSync m.other false, s₁.not_unordered_contextSync m.other true⟩

/-- Settles O59: the second read notes both names, and a write by either is then unordered. -/
theorem writeAfterReadsByBothNamesIsRefused : Obligations.WriteAfterReadsByBothNamesIsRefused := by
  intro m w t d k s s₁ s₂ hw h₁ h₂
  have hd₁ : ReadDone m t s s₁ := exec_mrs_next h₁
  have hd₂ : ReadDone m.other d s₁ s₂ := exec_mrs_next h₂
  have hw₁ : s₁.watched := State.watched_of_env_eq hd₁.env_pc.1 hw
  have hw₂ : s₂.watched := State.watched_of_env_eq hd₂.env_pc.1 hw₁
  have hboth : s₂.bothNames = true :=
    hd₂.bothNames_of_lastMn_other hw₁ (by rw [hd₁.lastMn_eq hw, other_other])
  rw [ne_eq, exec_msr_refused_iff, exec_msr_refused_iff]
  exact ⟨⟨hw₂, .inr ⟨hboth, rfl⟩⟩, s₂.not_unordered_contextSync w true⟩

/-! ## Two reads -/

/-- At EL3 in host mode either name reaches the register (41_register_access R108). -/
theorem State.reaches_cpacr_el3 {s : State} (hel : s.env.el = .el3) (hhost : s.env.hostEL2 = true) (m : Mnemonic)
    (w : Bool) : s.reaches m w .cpacr := by
  cases m with
  | cpacrEL1 => exact .inr (.inr hel)
  | cpacrEL12 => exact .inr ⟨hel, hhost⟩

theorem State.canAccess_read_el3 {s : State} (hel : s.env.el = .el3) (hhost : s.env.hostEL2 = true)
    (hlw : s.lastWasWrite = false) {m : Mnemonic} : s.canAccess m false .cpacr :=
  ⟨State.not_unordered_read hlw m, State.reaches_cpacr_el3 hel hhost m false, nofun⟩

/-- Settles O48: the first read changes neither the register nor a configuration bit and notes no write, so the second
can be made as the first could. -/
theorem twoReadsCommuteAtEL3 : Obligations.TwoReadsCommuteAtEL3 := by
  intro m t d s hel hhost hlw ht hd htd
  have hfirst : s.canAccess m false .cpacr := State.canAccess_read_el3 hel hhost hlw
  have hsecond : State.canAccess { s.accessed m false with x := setX t s.cpacr s.x } m.other false .cpacr := by
    apply State.canAccess_read_el3
    exacts [hel, hhost, State.accessed_read_lastWasWrite hlw m]
  refine ⟨_, _, exec_mrs_of_canAccess t hfirst, exec_mrs_of_canAccess d hsecond, ?_, ?_⟩
  · exact (getX_setX_other htd _ _).trans (getX_setX_same ht _ _)
  · exact getX_setX_same hd _ _

end Sys2Proof.Machine
end

section
/-! `NVMem[0x100]`, the cell that both names reach under nested virtualisation (20_memory R40, R41). -/

namespace Sys2Proof.Machine

/-- The cell is reached from EL1 alone (41_register_access R108). -/
theorem State.el_of_reaches_nvMem {s : State} {m : Mnemonic} {w : Bool} (h : s.reaches m w .nvMem) :
    s.env.el = .el1 := by
  cases m with
  | cpacrEL1 => exact h.1
  | cpacrEL12 => exact h.1

/-- An access of the cell is ordered: 20_memory R47 speaks of EL3. -/
theorem State.not_unordered_of_reaches_nvMem {s : State} {m : Mnemonic} {w : Bool} (h : s.reaches m w .nvMem) :
    ¬ s.unordered m w :=
  State.not_unordered_of_el_ne (by simp [State.el_of_reaches_nvMem h]) m w

theorem exec_mrs_nvMemFault {m : Mnemonic} {s : State} (t : Nat) (hf : s.env.nvMemFault = true)
    (h : s.reaches m false .nvMem) : exec (m.mrs t) s = .fault (.nvMemFault .el1 s.pc) := by
  have hroute : accessRoute s m false = .nvMem := (accessRoute_iff s m false .nvMem).mpr h
  rw [exec_mrs, State.mnemonicHazard_false (State.not_unordered_of_reaches_nvMem h), hroute]
  simp [readRoute, raise, hf, State.el_of_reaches_nvMem h]

theorem exec_msr_nvMemFault {m : Mnemonic} {s : State} (t : Nat) (hf : s.env.nvMemFault = true)
    (h : s.reaches m true .nvMem) : exec (m.msr t) s = .fault (.nvMemFault .el1 s.pc) := by
  have hroute : accessRoute s m true = .nvMem := (accessRoute_iff s m true .nvMem).mpr h
  rw [exec_msr, State.mnemonicHazard_false (State.not_unordered_of_reaches_nvMem h), hroute]
  simp [writeRoute, raise, hf, State.el_of_reaches_nvMem h]

/-- Settles O28. -/
theorem memoryFaultEndsTheAccess : Obligations.MemoryFaultEndsTheAccess := fun t _ hf =>
  ⟨exec_mrs_nvMemFault (m := .cpacrEL1) t hf, exec_msr_nvMemFault (m := .cpacrEL1) t hf,
    exec_mrs_nvMemFault (m := .cpacrEL12) t hf, exec_msr_nvMemFault (m := .cpacrEL12) t hf⟩

/-- Where the name `CPACR_EL12` reads the cell (41_register_access R102). -/
theorem State.canAccess_el12_nvMem {s : State} (hel : s.env.el = .el1) (hnv : s.env.nvx = 0b101)
    (hf : s.env.nvMemFault = false) {w : Bool} : s.canAccess .cpacrEL12 w .nvMem :=
  ⟨State.not_unordered_of_reaches_nvMem ⟨hel, hnv⟩, ⟨hel, hnv⟩, fun _ => hf⟩

/-- Settles O27: the write leaves the level and the fault input as they were, so the read by the other name finds the
cell at EL1 with no fault. -/
theorem bothNamesReachOneMemoryCell : Obligations.BothNamesReachOneMemoryCell := by
  intro t d s h
  have hel : s.env.el = .el1 := State.el_of_reaches_nvMem h.reaches
  have hread : State.canAccess
      { (s.accessed .cpacrEL1 true).stored .nvMem (s.readX t) with env := { s.env with nvx := 0b101 } }
      .cpacrEL12 false .nvMem := by
    apply State.canAccess_el12_nvMem
    exacts [hel, rfl, h.noFault rfl]
  exact ⟨_, _, exec_msr_of_canAccess t h, rfl, rfl, rfl, exec_mrs_of_canAccess d hread,
    fun hd => getX_setX_same hd _ _, rfl⟩

end Sys2Proof.Machine
end

section
/-! When a written value governs (20_memory R49, R50, 40_field_trap_controls R85, decision D11): the values that a check
can read, before and after a `ContextSync`. -/

namespace Sys2Proof.Machine

/-- Settles O42: every element of `{CPACR_EL1} ∪ stale` has a number, and every number names one. -/
theorem checkReadsAnyPendingValue : Obligations.CheckReadsAnyPendingValue := by
  intro s v
  constructor
  · rintro ⟨pick, rfl⟩
    exact List.mem_cons.mp (s.checkValue_mem pick)
  · intro h
    obtain ⟨pick, hpick⟩ := List.mem_iff_getElem?.mp (List.mem_cons.mpr h)
    exact ⟨pick, by rw [State.checkValue, List.getD_eq_getElem?_getD, hpick, Option.getD_some]⟩

/-- With nothing pending a check reads the register. -/
theorem State.checkValue_of_stale_nil {s : State} (h : s.stale = []) (pick : Nat) : s.checkValue pick = s.cpacr := by
  simpa [h] using s.checkValue_mem pick

@[simp] theorem State.stored_cpacr_cpacr (s : State) (v : Word) : (s.stored .cpacr v).cpacr = storeFilter s.impl v := rfl
@[simp] theorem State.stored_cpacr_stale (s : State) (v : Word) :
    (s.stored .cpacr v).stale = insertStale s.cpacr s.stale := rfl
@[simp] theorem State.accessed_stale (s : State) (m : Mnemonic) (w : Bool) : (s.accessed m w).stale = s.stale := rfl

/-- Settles O43. -/
theorem unsynchronisedWriteMayOrMayNotGovern : Obligations.UnsynchronisedWriteMayOrMayNotGovern := by
  intro m t s h
  refine ⟨_, exec_msr_of_canAccess t h, fun v => ?_⟩
  rw [checkReadsAnyPendingValue, State.stored_cpacr_cpacr, State.stored_cpacr_stale, mem_insertStale,
    State.accessed_impl, State.accessed_cpacr, State.accessed_stale]

/-- Settles O45. -/
theorem contextSyncHasTwoEffects : Obligations.ContextSyncHasTwoEffects := fun _ _ h => step_outside h

/-- Whether an access can be made does not depend on the schedule. -/
theorem State.canAccess.turnTaken {s : State} {m : Mnemonic} {w : Bool} {p : Storage} (h : s.canAccess m w p) :
    s.turnTaken.canAccess m w p :=
  ⟨h.ordered, h.reaches, h.noFault⟩

theorem run_two {s s₁ s₂ : State} (h₁ : step s = .next s₁) (h₂ : step s₁ = .next s₂) :
    Host.Core.run core 2 s = .next s₂ := by
  simp [Host.Core.run, core, h₁, h₂]

/-- Settles O44: the write is stored with the old value pending, and the synchronisation drops what is pending. -/
theorem synchronisedWriteGoverns : Obligations.SynchronisedWriteGoverns := by
  intro m t s rest hs hf h
  have hwrite : step s = .next ((s.turnTaken.accessed m true).stored .cpacr (s.readX t)) :=
    (stepRunsTheDecodedInstruction s (m.msr t) (.inr ⟨_, hs⟩) hf).trans (exec_msr_of_canAccess t h.turnTaken)
  have hturn : ((s.turnTaken.accessed m true).stored .cpacr (s.readX t)).schedule = .outside .contextSync :: rest :=
    congrArg List.tail hs
  exact ⟨_, run_two hwrite (contextSyncHasTwoEffects _ rest hturn), rfl, rfl, rfl, State.checkValue_of_stale_nil rfl⟩

end Sys2Proof.Machine
end

section
/-! The encoding (30_encoding R55 to R63): the word layout, the tuples and the decoder, each said once as an
equivalence, and what the PE's turn answers from the bytes at the pc. -/

namespace Sys2Proof

/-! ## The word layout of R57 -/

/-- The direction, one bit wide. -/
theorem ofBool_getLsbD_eq_extract (w : InsnWord) (n : Nat) : BitVec.ofBool (w.getLsbD n) = w.extractLsb' n 1 := by
  apply BitVec.eq_of_getLsbD_eq
  intro i hi
  obtain rfl : i = 0 := by omega
  simp

/-- Each field of a joined word is where `splitWord` looks for it. -/
theorem splitWord_joinWord (m : SysMove) : splitWord (joinWord m) = .ok m := by
  have hdir : (joinWord m).getLsbD 21 = m.isRead := by
    simp only [joinWord, BitVec.getLsbD_append, Nat.reduceLT, if_false, Nat.reduceSub, BitVec.getLsbD_ofBool,
      Nat.lt_one_iff, if_true, decide_true, Bool.true_and]
  rw [splitWord, hdir]
  simp (disch := omega) only [joinWord, BitVec.extractLsb'_append_eq_of_le, BitVec.extractLsb'_append_eq_of_add_le,
    Nat.reduceSub, BitVec.extractLsb'_eq_self, if_true]

theorem joinWord_of_splitWord {w : InsnWord} {m : SysMove} (h : splitWord w = .ok m) : joinWord m = w := by
  unfold splitWord at h
  split at h
  · next hopcode =>
    cases h
    simp only [joinWord, ← hopcode, ofBool_getLsbD_eq_extract]
    repeat rw [BitVec.extractLsb'_append_extractLsb'_eq_extractLsb' (by rfl)]
    exact BitVec.extractLsb'_eq_self
  · cases h

/-- The two readings of the layout are inverse. -/
theorem splitWord_eq_ok_iff (w : InsnWord) (m : SysMove) : splitWord w = .ok m ↔ joinWord m = w :=
  ⟨joinWord_of_splitWord, fun h => h ▸ splitWord_joinWord m⟩

/-! ## The tuples of R56 -/

/-- Settles O4. -/
theorem tuplesSelectTheForms : Obligations.TuplesSelectTheForms := by
  rintro ⟨isRead, op0, op1, crn, crm, op2, rt⟩ i
  unfold selectForm
  split
  · next hpoint =>
    obtain ⟨rfl, rfl, rfl, rfl⟩ := hpoint
    by_cases hel1 : op1 = 0b000
    · subst hel1
      cases isRead <;> simp [eq_comm]
    · by_cases hel12 : op1 = 0b101
      · subst hel12
        cases isRead <;> simp [eq_comm]
      · simp only [hel1, hel12, if_false, reduceCtorEq, false_and, and_false, or_self]
  · next hpoint =>
    simp only [reduceCtorEq, false_iff]
    rintro ⟨h0, hn, hm, h2, -⟩
    exact hpoint ⟨h0, hn, hm, h2⟩

theorem selectForm_sysMove {i : Instr} (h : i.WellFormed) : selectForm i.sysMove = .ok i := by
  have hrt : (BitVec.ofNat 5 i.rt).toNat = i.rt := Nat.mod_eq_of_lt (of_decide_eq_true h)
  rw [tuplesSelectTheForms]
  cases i <;> simpa [Instr.sysMove, Instr.rt, eq_comm] using hrt

/-- A tuple selects an instruction exactly when it is that instruction's own, with an operand that fits `Rt` (R58). -/
theorem selectForm_eq_ok_iff (m : SysMove) (i : Instr) : selectForm m = .ok i ↔ i.WellFormed ∧ i.sysMove = m := by
  constructor
  · intro h
    obtain ⟨isRead, op0, op1, crn, crm, op2, rt⟩ := m
    obtain ⟨rfl, rfl, rfl, rfl, hform⟩ := (tuplesSelectTheForms _ i).mp h
    rcases hform with ⟨rfl, rfl, rfl⟩ | ⟨rfl, rfl, rfl⟩ | ⟨rfl, rfl, rfl⟩ | ⟨rfl, rfl, rfl⟩
    all_goals exact ⟨decide_eq_true rt.isLt, by simp [Instr.sysMove]⟩
  · rintro ⟨hwf, rfl⟩
    exact selectForm_sysMove hwf

/-! ## The decoder and the encoder -/

theorem decodeWord_eq_ok_iff_split (w : InsnWord) (i : Instr) :
    decodeWord w = .ok i ↔ ∃ m, splitWord w = .ok m ∧ selectForm m = .ok i := by
  cases h : splitWord w <;> simp [decodeWord, h]

/-- A word decodes to an instruction exactly when it is the word of that instruction. -/
theorem decodeWord_eq_ok_iff (w : InsnWord) (i : Instr) : decodeWord w = .ok i ↔ i.WellFormed ∧ encodeWord i = w := by
  simp only [decodeWord_eq_ok_iff_split, splitWord_eq_ok_iff, selectForm_eq_ok_iff, encodeWord]
  constructor
  · rintro ⟨m, hjoin, hwf, rfl⟩
    exact ⟨hwf, hjoin⟩
  · rintro ⟨hwf, hjoin⟩
    exact ⟨i.sysMove, hjoin, hwf, rfl⟩

/-- Settles O1. -/
theorem everyEncodingDecodesBack : Obligations.EveryEncodingDecodesBack := by
  intro i rest hwf
  rw [encode, decode_wordBytes, (decodeWord_eq_ok_iff _ i).mpr ⟨hwf, rfl⟩]

/-- Settles O2. -/
theorem decodedWordEncodesBack : Obligations.DecodedWordEncodesBack := fun w i h =>
  (decodeWord_eq_ok_iff w i).mp h

/-! ## The four patterns of R57 -/

theorem encodesUnderMask (i : Instr) : Laws.EncodesUnderMask.Statement i := by
  cases i with
  | mrsCpacrEl1 t => exact Laws.EncodesUnderMask.mrsCpacrEl1 t
  | msrCpacrEl1 t => exact Laws.EncodesUnderMask.msrCpacrEl1 t
  | mrsCpacrEl12 t => exact Laws.EncodesUnderMask.mrsCpacrEl12 t
  | msrCpacrEl12 t => exact Laws.EncodesUnderMask.msrCpacrEl12 t

/-- The mask of R57 keeps every bit above `Rt`. -/
theorem getLsbD_patternMask {n : Nat} (hlow : ¬ n < 5) (hn : n < 32) : (0xFFFFFFE0 : InsnWord).getLsbD n = true := by
  have hones : (0xFFFFFFE0 : InsnWord) = BitVec.allOnes 32 <<< 5 := by decide
  rw [hones, BitVec.getLsbD_shiftLeft, BitVec.getLsbD_allOnes]
  simp [hn, hlow, show n - 5 < 32 by omega]

/-- A word is made of what the mask keeps and of the `Rt` field below it. -/
theorem eq_of_mask_of_rt {v w : InsnWord} (hmask : v &&& 0xFFFFFFE0 = w &&& 0xFFFFFFE0)
    (hrt : v.extractLsb' 0 5 = w.extractLsb' 0 5) : v = w := by
  apply BitVec.eq_of_getLsbD_eq
  intro n hn
  by_cases hlow : n < 5
  · simpa [hlow] using congrArg (BitVec.getLsbD · n) hrt
  · simpa only [BitVec.getLsbD_and, getLsbD_patternMask hlow hn, Bool.and_true] using congrArg (BitVec.getLsbD · n) hmask

/-- A word under the match value of a well-formed instruction whose operand is the word's `Rt` decodes to it. -/
theorem decodeWord_of_mask {w : InsnWord} {i : Instr} (hi : i.rt = (w.extractLsb' 0 5).toNat)
    (hmask : w &&& 0xFFFFFFE0 = Laws.EncodesUnderMask.matchValue i) : decodeWord w = .ok i := by
  have hwf : i.WellFormed := decide_eq_true (hi ▸ (w.extractLsb' 0 5).isLt)
  obtain ⟨hvalue, hrt⟩ := encodesUnderMask i hwf
  refine (decodeWord_eq_ok_iff w i).mpr ⟨hwf, eq_of_mask_of_rt (hvalue.trans hmask.symm) (hrt.trans ?_)⟩
  rw [hi, BitVec.ofNat_toNat, BitVec.setWidth_eq]

/-- Settles O3. -/
theorem onlyFourPatternsDecode : Obligations.OnlyFourPatternsDecode := by
  intro w
  constructor
  · rintro ⟨i, h⟩
    obtain ⟨hwf, rfl⟩ := (decodeWord_eq_ok_iff w i).mp h
    rw [(encodesUnderMask i hwf).1]
    cases i with
    | mrsCpacrEl1 t => exact .inl rfl
    | msrCpacrEl1 t => exact .inr (.inl rfl)
    | mrsCpacrEl12 t => exact .inr (.inr (.inl rfl))
    | msrCpacrEl12 t => exact .inr (.inr (.inr rfl))
  · rintro (h | h | h | h)
    · exact ⟨.mrsCpacrEl1 _, decodeWord_of_mask rfl h⟩
    · exact ⟨.msrCpacrEl1 _, decodeWord_of_mask rfl h⟩
    · exact ⟨.mrsCpacrEl12 _, decodeWord_of_mask rfl h⟩
    · exact ⟨.msrCpacrEl12 _, decodeWord_of_mask rfl h⟩

end Sys2Proof

namespace Sys2Proof.Machine

/-! ## What the PE's turn answers from the bytes at the pc -/

/-- The four forms are AArch64-state instructions (R63). -/
theorem fetch_aarch32 {s : State} (h : s.env.aarch32 = true) : fetch s = .refused .aarch32State := by
  rw [fetch, if_pos h]

/-- Bytes that are none of the four patterns are refused by name (R62). -/
theorem fetch_undecodable {s : State} {bytes : List Byte} {e : DecodeError} (ha64 : s.env.aarch32 = false)
    (haligned : s.pc.toNat % 4 = 0) (hread : s.mem.readBytes s.pc.toNat 4 = .ok bytes)
    (hdecode : decode bytes = .error e) : fetch s = .refused (.undecodable e) := by
  simp [fetch, ha64, haligned, hread, hdecode]

/-- A fetch that is refused ends the PE's turn with its refusal; it sees all of the state but the schedule. -/
theorem step_of_fetch_refused {s : State} {why : Refusal} (ht : s.insnTurn)
    (h : fetch s.turnTaken = .refused why) : step s = .refused why := by
  rw [step_insnTurn ht, stepInstruction, h]

/-- Settles O8. -/
theorem otherWordsAreRefused : Obligations.OtherWordsAreRefused :=
  fun _ _ _ ht ha64 haligned hread hdecode => step_of_fetch_refused ht (fetch_undecodable ha64 haligned hread hdecode)

/-- Settles O57. -/
theorem aarch32FetchIsRefused : Obligations.AArch32FetchIsRefused := fun _ ht ha32 =>
  step_of_fetch_refused ht (fetch_aarch32 ha32)

/-! ## A placed word -/

theorem aligned_mod_four (pc : Word) : (pc &&& ~~~ 3).toNat % 4 = 0 := by
  have hlow : (pc &&& ~~~ 3).setWidth 2 = 0 := by simp
  rw [← BitVec.toNat_setWidth 2, hlow]
  rfl

/-- With no turn to come there is none to take off. -/
theorem State.turnTaken_of_schedule_nil {s : State} (h : s.schedule = []) : s.turnTaken = s := by
  rw [State.turnTaken, h, List.tail_nil, ← h]

/-- The bytes of a placed word are read back at the pc it was placed at. -/
theorem State.placeWord_readBytes (s : State) (w : InsnWord) :
    (s.placeWord w).mem.readBytes (s.placeWord w).pc.toNat 4 = .ok (wordBytes w) :=
  Memory.readBytes_writeBytes (wordBytes w) s.mem _

theorem decode_of_decodeTableWord {nbits w : Nat} {i : Instr} (h : decodeTableWord nbits w = some i) :
    ∃ rest, decode (wordBytes (tableWord nbits w)) = .ok (i, rest) := by
  unfold decodeTableWord at h
  split at h
  · next rest hdecode =>
    cases h
    exact ⟨rest, hdecode⟩
  · cases h

theorem State.withFetchWord_fetches (s : State) {nbits w : Nat} {i : Instr} (h : decodeTableWord nbits w = some i) :
    (s.withFetchWord nbits w).Fetches i where
  a64 := rfl
  aligned := aligned_mod_four s.pc
  word := by
    obtain ⟨rest, hdecode⟩ := decode_of_decodeTableWord h
    exact ⟨_, rest, s.placeWord_readBytes _, hdecode⟩

/-- Settles O7: the placed word stands at the pc and the schedule is empty, so the PE's turn takes nothing off. -/
theorem placedWordRunsNext : Obligations.PlacedWordRunsNext := by
  intro s nbits w i h
  have hturn : (s.withFetchWord nbits w).schedule = [] := rfl
  rw [stepRunsTheDecodedInstruction _ i (.inl hturn) (s.withFetchWord_fetches h), State.turnTaken_of_schedule_nil hturn]

end Sys2Proof.Machine
end

section
/-! The trap checks of the five fields (40_field_trap_controls R70 to R87): what each field's check answers, said once,
how a class's check is put together from these, and the spec's function over the bits. -/

namespace Sys2Proof.Machine

/-- Settles O29, level by level: at EL0 and EL1 one of the two disjuncts is left, at EL2 and EL3 none. -/
theorem twoBitEnableCode : Obligations.TwoBitEnableCode := by
  intro f el
  cases el <;> simp [en2Traps]

/-! ## The answer of one field -/

theorem trapsWith_iff (env : Env) (r : CheckResult) (ec : BitVec 6) (iss : Iss) :
    trapsWith env r ec iss ↔ r = .trap (trapTarget env) ec iss := by
  by_cases h : env.routesToEL2
  · simp [trapsWith, h, trapTarget_of_routed h]
  · simp [trapsWith, h, trapTarget_of_not_routed h]

/-- An EC that depends on the target, as FPEN's does (R78, R79). -/
theorem trapsWith_ite_iff (env : Env) (r : CheckResult) (ec₂ ec₁ : BitVec 6) (iss : Iss) :
    trapsWith env r (if trapTarget env = .el2 then ec₂ else ec₁) iss ↔
      (env.routesToEL2 → r = .trap .el2 ec₂ iss) ∧ (¬ env.routesToEL2 → r = .trap .el1 ec₁ iss) := by
  by_cases h : env.routesToEL2
  · simp [trapsWith, h, trapTarget_of_routed h]
  · simp [trapsWith, h, trapTarget_of_not_routed h]

/-- `r` is the answer of one field's check: where the fields act (R71) and `q` holds it is the field's trap, and nowhere
else is there one. -/
def FieldAnswer (q : Prop) (env : Env) (r : CheckResult) (ec : BitVec 6) (iss : Iss) : Prop :=
  (env.fieldsAct ∧ q → trapsWith env r ec iss) ∧ (¬ (env.fieldsAct ∧ q) → r = .noTrap)

theorem fieldAnswer_trapIf {c : Bool} {q : Prop} {env : Env} (ec : BitVec 6) (iss : Iss)
    (h : c = true ↔ env.fieldsAct ∧ q) : FieldAnswer q env (trapIf c env ec iss) ec iss := by
  rw [FieldAnswer, ← h, trapsWith_iff]
  obtain ⟨rfl, ht⟩ | ⟨rfl, ht⟩ := trapIf_cases c env ec iss
  · exact ⟨fun _ => ht, fun hc => absurd rfl hc⟩
  · exact ⟨nofun, fun _ => ht⟩

theorem FieldAnswer.eq_trap {q : Prop} {env : Env} {r : CheckResult} {ec ec' : BitVec 6} {iss iss' : Iss} {target : EL}
    (h : FieldAnswer q env r ec iss) (hr : r = .trap target ec' iss') :
    (env.fieldsAct ∧ q) ∧ target = trapTarget env ∧ ec' = ec ∧ iss' = iss := by
  by_cases hq : env.fieldsAct ∧ q
  · have hfield : r = .trap (trapTarget env) ec iss := (trapsWith_iff ..).mp (h.1 hq)
    simpa [hq] using hr.symm.trans hfield
  · cases hr.symm.trans (h.2 hq)

/-- Outside its levels, and under the host configuration, a field answers nothing (R70, R71). -/
theorem FieldAnswer.noTrap_of_not_fieldsAct {q : Prop} {env : Env} {r : CheckResult} {ec : BitVec 6} {iss : Iss}
    (h : FieldAnswer q env r ec iss) (hact : ¬ env.fieldsAct) : r = .noTrap :=
  h.2 fun hq => hact hq.1

/-- A field whose own condition fails answers nothing. -/
theorem FieldAnswer.noTrap_of_not {q : Prop} {env : Env} {r : CheckResult} {ec : BitVec 6} {iss : Iss}
    (h : FieldAnswer q env r ec iss) (hq : ¬ q) : r = .noTrap :=
  h.2 fun hact => hq hact.2

/-! ## The five fields -/

theorem checkE0POE_answer (env : Env) (impl : Impl) (v : Word) :
    FieldAnswer (env.el = .el0 ∧ env.aarch32 = false ∧ impl.featS1POE = true ∧ e0poe impl.fieldPos v = false) env
      (checkE0POE env impl v) 0x18 .unspecified :=
  fieldAnswer_trapIf _ _ (by simp [active_iff, and_assoc])

theorem checkTTA_answer (env : Env) (impl : Impl) (v : Word) (ec : BitVec 6) :
    FieldAnswer (impl.traceSysreg = true ∧ tta impl.fieldPos v = true) env (checkTTA env impl v ec) ec .unspecified :=
  fieldAnswer_trapIf _ _ (by simp [active_iff, and_assoc])

theorem checkSMEN_answer (env : Env) (impl : Impl) (v : Word) :
    FieldAnswer (impl.featSME = true ∧ fieldTraps (smen impl.fieldPos v) env.el) env (checkSMEN env impl v) 0x1D
      (.value 0) :=
  fieldAnswer_trapIf _ _ (by simp [active_iff, en2Traps_iff, and_assoc])

theorem checkZEN_answer (env : Env) (impl : Impl) (v : Word) :
    FieldAnswer (impl.featSVE = true ∧ fieldTraps (zen impl.fieldPos v) env.el) env (checkZEN env impl v) 0x19
      .unspecified :=
  fieldAnswer_trapIf _ _ (by simp [active_iff, en2Traps_iff, and_assoc])

theorem checkFPENSimd_answer (env : Env) (impl : Impl) (v : Word) :
    FieldAnswer (fieldTraps (fpen impl.fieldPos v) env.el) env (checkFPENSimd env impl v)
      (if trapTarget env = .el2 then 0x00 else 0x07) .unspecified :=
  fieldAnswer_trapIf _ _ (by simp [active_iff, en2Traps_iff])

theorem checkFPENVector_answer (env : Env) (impl : Impl) (v : Word) :
    FieldAnswer (fieldTraps (fpen impl.fieldPos v) env.el) env (checkFPENVector env impl v)
      (if trapTarget env = .el2 then impl.fpenSveSmeEL2EC else 0x07) .unspecified :=
  fieldAnswer_trapIf _ _ (by simp [active_iff, en2Traps_iff])

/-- Settles O31: E0POE alone checks the class. -/
theorem e0poeCheck : Obligations.E0poeCheck := checkE0POE_answer

/-- Settles O32: TTA alone checks the three classes, with the EC of each. -/
theorem ttaCheck : Obligations.TtaCheck := by
  intro env impl v
  obtain ⟨hA64, hA64'⟩ := checkTTA_answer env impl v 0x18
  obtain ⟨hMrc, hMrc'⟩ := checkTTA_answer env impl v 0x05
  obtain ⟨hMrrc, hMrrc'⟩ := checkTTA_answer env impl v 0x0C
  exact ⟨fun h => ⟨hA64 h, hMrc h, hMrrc h⟩, fun h => ⟨hA64' h, hMrc' h, hMrrc' h⟩⟩

/-- Settles O34: FPEN alone checks the class. -/
theorem fpenSimdCheck : Obligations.FpenSimdCheck := by
  intro env impl v
  obtain ⟨htrap, hpass⟩ := checkFPENSimd_answer env impl v
  exact ⟨fun h => (trapsWith_ite_iff ..).mp (htrap h), hpass⟩

/-! ## Precedence -/

theorem CheckResult.before_of_noTrap {a : CheckResult} (b : CheckResult) (h : a = .noTrap) : a.before b = b := by
  rw [h, CheckResult.before]

theorem CheckResult.before_of_trapsWith {env : Env} {a : CheckResult} {ec : BitVec 6} {iss : Iss} (b : CheckResult)
    (h : trapsWith env a ec iss) : trapsWith env (a.before b) ec iss := by
  rw [trapsWith_iff] at h ⊢
  rw [h, CheckResult.before]

theorem CheckResult.before_eq_trap {a b : CheckResult} {target : EL} {ec : BitVec 6} {iss : Iss}
    (h : a.before b = .trap target ec iss) : a = .trap target ec iss ∨ b = .trap target ec iss := by
  cases a with
  | noTrap => exact .inr h
  | refuse => cases h
  | trap => exact .inl h

/-! ## The classes that FPEN checks after another field -/

/-- SMEN checks an SVE instruction without FEAT_SVE or in Streaming SVE mode (R77). -/
theorem cpacrCheck_sveInsn_of_smen {env : Env} {impl : Impl} (h : impl.featSVE = false ∨ env.streamingSVE = true)
    (v : Word) : cpacrCheck .sveInsn env impl v = (checkSMEN env impl v).before (checkFPENVector env impl v) := by
  rw [cpacrCheck, if_pos (by simpa using h)]

/-- ZEN checks it otherwise (R80). -/
theorem cpacrCheck_sveInsn_of_zen {env : Env} {impl : Impl} (h : impl.featSVE = true ∧ env.streamingSVE = false)
    (v : Word) : cpacrCheck .sveInsn env impl v = (checkZEN env impl v).before (checkFPENVector env impl v) := by
  rw [cpacrCheck, if_neg (by simp [h])]

theorem smen_or_zen_applies (env : Env) (impl : Impl) :
    (impl.featSVE = false ∨ env.streamingSVE = true) ∨ (impl.featSVE = true ∧ env.streamingSVE = false) := by
  cases impl.featSVE <;> cases env.streamingSVE <;> simp

theorem checkFPENVector_eq_trap {env : Env} {impl : Impl} {v : Word} {target : EL} {ec : BitVec 6} {iss : Iss}
    (h : checkFPENVector env impl v = .trap target ec iss) :
    (ec = impl.fpenSveSmeEL2EC ∨ ec = 0x07) ∧ iss = .unspecified := by
  obtain ⟨-, -, rfl, rfl⟩ := (checkFPENVector_answer env impl v).eq_trap h
  exact ⟨ite_eq_or_eq .., rfl⟩

/-- Where SMEN checks first, a trap is SMEN's or FPEN's. -/
theorem smen_before_fpen_eq_trap {env : Env} {impl : Impl} {v : Word} {target : EL} {ec : BitVec 6} {iss : Iss}
    (h : (checkSMEN env impl v).before (checkFPENVector env impl v) = .trap target ec iss) :
    ((env.fieldsAct ∧ impl.featSME = true ∧ fieldTraps (smen impl.fieldPos v) env.el) ∧ ec = 0x1D) ∨
      ((ec = impl.fpenSveSmeEL2EC ∨ ec = 0x07) ∧ iss = .unspecified) := by
  obtain h | h := CheckResult.before_eq_trap h
  · obtain ⟨hq, -, hec, -⟩ := (checkSMEN_answer env impl v).eq_trap h
    exact .inl ⟨hq, hec⟩
  · exact .inr (checkFPENVector_eq_trap h)

/-- Where ZEN checks first, a trap is ZEN's or FPEN's, and neither gives an ISS. -/
theorem zen_before_fpen_eq_trap {env : Env} {impl : Impl} {v : Word} {target : EL} {ec : BitVec 6} {iss : Iss}
    (h : (checkZEN env impl v).before (checkFPENVector env impl v) = .trap target ec iss) :
    iss = .unspecified ∧ ((env.fieldsAct ∧ impl.featSVE = true ∧ fieldTraps (zen impl.fieldPos v) env.el) ∨
      ec = impl.fpenSveSmeEL2EC ∨ ec = 0x07) := by
  obtain h | h := CheckResult.before_eq_trap h
  · obtain ⟨hq, -, -, hiss⟩ := (checkZEN_answer env impl v).eq_trap h
    exact ⟨hiss, .inl hq⟩
  · obtain ⟨hec, hiss⟩ := checkFPENVector_eq_trap h
    exact ⟨hiss, .inr hec⟩

/-- Settles O33: of the three fields SMEN alone gives an ISS. -/
theorem smenCheck : Obligations.SmenCheck := by
  intro env impl v
  obtain ⟨htrap, hpass⟩ := checkSMEN_answer env impl v
  have hzen (h : impl.featSVE = true ∧ env.streamingSVE = false) (target : EL) (ec : BitVec 6) :
      cpacrCheck .sveInsn env impl v ≠ .trap target ec (.value 0) := by
    rw [cpacrCheck_sveInsn_of_zen h]
    intro heq
    cases (zen_before_fpen_eq_trap heq).1
  refine ⟨fun h => ?_, fun h => ?_, hzen⟩
  · have hfirst : trapsWith env ((checkSMEN env impl v).before (checkFPENVector env impl v)) 0x1D (.value 0) :=
      CheckResult.before_of_trapsWith _ (htrap h)
    refine ⟨hfirst, htrap h, htrap h, fun hsve => ?_⟩
    rwa [cpacrCheck_sveInsn_of_smen hsve]
  · have hnone (target : EL) (ec : BitVec 6) :
        (checkSMEN env impl v).before (checkFPENVector env impl v) ≠ .trap target ec (.value 0) := by
      intro heq
      obtain ⟨hq, -⟩ | ⟨-, hiss⟩ := smen_before_fpen_eq_trap heq
      · exact h hq
      · cases hiss
    refine ⟨hpass h, hpass h, hnone, ?_⟩
    obtain hsve | hsve := smen_or_zen_applies env impl
    · rwa [cpacrCheck_sveInsn_of_smen hsve]
    · exact hzen hsve

/-- Settles O35: SMEN's EC is 0x1D and FPEN's is 0x07 or the parameter, so EC 0x19 is ZEN's. -/
theorem zenCheck : Obligations.ZenCheck := by
  intro env impl v
  obtain ⟨htrap, hpass⟩ := checkZEN_answer env impl v
  refine ⟨fun h => ⟨htrap h, fun hstream => ?_⟩, hpass, fun h hparam target iss heq => ?_⟩
  · have ⟨_, hsve, _⟩ := h
    rw [cpacrCheck_sveInsn_of_zen ⟨hsve, hstream⟩]
    exact CheckResult.before_of_trapsWith _ (htrap h)
  · have hfpen : ¬ ((0x19 : BitVec 6) = impl.fpenSveSmeEL2EC ∨ (0x19 : BitVec 6) = 0x07) := by
      simpa using hparam.symm
    obtain hsve | hsve := smen_or_zen_applies env impl
    · rw [cpacrCheck_sveInsn_of_smen hsve] at heq
      obtain ⟨-, hec⟩ | ⟨hec, -⟩ := smen_before_fpen_eq_trap heq
      · exact absurd hec (by decide)
      · exact hfpen hec
    · rw [cpacrCheck_sveInsn_of_zen hsve] at heq
      obtain ⟨-, hq | hec⟩ := zen_before_fpen_eq_trap heq
      · exact h ⟨hq, hsve.2⟩
      · exact hfpen hec

/-- Settles O36: the first field answers nothing in each of the three ways, and FPEN's answer is left. -/
theorem fpenVectorCheck : Obligations.FpenVectorCheck := by
  intro c env impl v hfirst
  have hleft : cpacrCheck c env impl v = checkFPENVector env impl v := by
    obtain ⟨rfl, hsmen⟩ | ⟨rfl, hsve, hsmen⟩ | ⟨rfl, hsve, hstream, hzen⟩ := hfirst
    · exact CheckResult.before_of_noTrap _ ((checkSMEN_answer env impl v).noTrap_of_not hsmen)
    · rw [cpacrCheck_sveInsn_of_smen hsve]
      exact CheckResult.before_of_noTrap _ ((checkSMEN_answer env impl v).noTrap_of_not hsmen)
    · rw [cpacrCheck_sveInsn_of_zen ⟨hsve, hstream⟩]
      exact CheckResult.before_of_noTrap _ ((checkZEN_answer env impl v).noTrap_of_not fun hq => hzen hq.2)
  obtain ⟨htrap, hpass⟩ := checkFPENVector_answer env impl v
  rw [hleft]
  exact ⟨fun h => (trapsWith_ite_iff ..).mp (htrap h), hpass⟩

theorem checkFPENVector_congr {impl : Impl} {v w : Word} (env : Env)
    (h : fpen impl.fieldPos v = fpen impl.fieldPos w) : checkFPENVector env impl v = checkFPENVector env impl w := by
  simp only [checkFPENVector, h]

/-- An SVE instruction's check looks at FPEN and at the one of SMEN and ZEN that applies (R82). -/
theorem cpacrCheck_sveInsn_congr {env : Env} {impl : Impl} {v w : Word}
    (hfpen : fpen impl.fieldPos w = fpen impl.fieldPos v)
    (hsmen : impl.featSVE = false ∨ env.streamingSVE = true → smen impl.fieldPos w = smen impl.fieldPos v)
    (hzen : impl.featSVE = true ∧ env.streamingSVE = false → zen impl.fieldPos w = zen impl.fieldPos v) :
    cpacrCheck .sveInsn env impl w = cpacrCheck .sveInsn env impl v := by
  have hFPEN := checkFPENVector_congr env hfpen
  obtain hsve | hsve := smen_or_zen_applies env impl
  · rw [cpacrCheck_sveInsn_of_smen hsve, cpacrCheck_sveInsn_of_smen hsve,
      checkSMEN_congr env fun _ => hsmen hsve, hFPEN]
  · rw [cpacrCheck_sveInsn_of_zen hsve, cpacrCheck_sveInsn_of_zen hsve,
      checkZEN_congr env fun _ => hzen hsve, hFPEN]

/-- Settles O37: the precedence is that of O33 and O35, whatever FPEN holds. -/
theorem smenAndZenPrecedeFpen : Obligations.SmenAndZenPrecedeFpen := by
  intro env impl v
  refine ⟨fun hact _ => ⟨fun hsmen => ?_, fun ⟨hsve, hstream, hzen⟩ => ?_⟩, fun w => cpacrCheck_sveInsn_congr,
    fun w he0poe => checkE0POE_congr env fun _ => he0poe, fun w htta c hc => ?_⟩
  · obtain ⟨hsme, -, -, hsveInsn⟩ := (smenCheck env impl v).1 ⟨hact, hsmen⟩
    exact ⟨hsme, hsveInsn⟩
  · obtain ⟨-, hsveInsn⟩ := (zenCheck env impl v).1 ⟨hact, hsve, hzen⟩
    exact hsveInsn hstream
  · obtain rfl | rfl | rfl := hc
    · exact checkTTA_congr env 0x18 fun _ => htta
    · exact checkTTA_congr env 0x05 fun _ => htta
    · exact checkTTA_congr env 0x0C fun _ => htta

/-! ## Every class -/

/-- Where the fields do not act nothing is trapped (R70, R71); `MVFR_WRITE` is refused before any field (R81). -/
theorem cpacrCheck_of_not_fieldsAct {c : TrapClass} {env : Env} (impl : Impl) (v : Word) (hact : ¬ env.fieldsAct)
    (hc : c ≠ .mvfrWrite) : cpacrCheck c env impl v = .noTrap := by
  have hTTA (ec : BitVec 6) := (checkTTA_answer env impl v ec).noTrap_of_not_fieldsAct hact
  have hSMEN := (checkSMEN_answer env impl v).noTrap_of_not_fieldsAct hact
  have hZEN := (checkZEN_answer env impl v).noTrap_of_not_fieldsAct hact
  have hFPEN := (checkFPENVector_answer env impl v).noTrap_of_not_fieldsAct hact
  cases c with
  | porEL0Access => exact (checkE0POE_answer env impl v).noTrap_of_not_fieldsAct hact
  | traceA64 => exact hTTA 0x18
  | traceA32MrcMcr => exact hTTA 0x05
  | traceA32MrrcMcrr => exact hTTA 0x0C
  | smeInsn => exact (CheckResult.before_of_noTrap _ hSMEN).trans hFPEN
  | sveInsn =>
    refine (CheckResult.before_of_noTrap _ ?_).trans hFPEN
    rw [hSMEN, hZEN, ite_self]
  | svcrAccess => exact hSMEN
  | smcrEL1Access => exact hSMEN
  | zcrEL1Access => exact hZEN
  | fpsimdAccess => exact (checkFPENSimd_answer env impl v).noTrap_of_not_fieldsAct hact
  | mvfrWrite => exact absurd rfl hc
  | other => rfl

/-- Settles O30: under the host configuration the fields do not act. -/
theorem hostConfigurationDisablesEveryField : Obligations.HostConfigurationDisablesEveryField :=
  fun _ _ impl v hhost hc => cpacrCheck_of_not_fieldsAct impl v (fun hact => hact.2 hhost) hc

/-- A trap that is answered comes from where the fields act, goes to `Target(Env)` (R73), and its ISS is unspecified or
SMEN's (R77, 60_exceptions R120). -/
def CheckResult.InPlace (env : Env) (r : CheckResult) : Prop :=
  ∀ target ec iss, r = .trap target ec iss →
    env.fieldsAct ∧ target = trapTarget env ∧ (iss = .unspecified ∨ (iss = .value 0 ∧ ec = 0x1D))

theorem FieldAnswer.inPlace {q : Prop} {env : Env} {r : CheckResult} {ec : BitVec 6} {iss : Iss}
    (h : FieldAnswer q env r ec iss) (hiss : iss = .unspecified ∨ (iss = .value 0 ∧ ec = 0x1D)) : r.InPlace env := by
  intro target ec' iss' hr
  obtain ⟨⟨hact, -⟩, htarget, rfl, rfl⟩ := h.eq_trap hr
  exact ⟨hact, htarget, hiss⟩

theorem CheckResult.InPlace.before {env : Env} {a b : CheckResult} (ha : a.InPlace env) (hb : b.InPlace env) :
    (a.before b).InPlace env := by
  intro target ec iss h
  obtain h | h := CheckResult.before_eq_trap h
  · exact ha target ec iss h
  · exact hb target ec iss h

theorem cpacrCheck_inPlace (c : TrapClass) (env : Env) (impl : Impl) (v : Word) :
    (cpacrCheck c env impl v).InPlace env := by
  have hTTA (ec : BitVec 6) := (checkTTA_answer env impl v ec).inPlace (.inl rfl)
  have hSMEN := (checkSMEN_answer env impl v).inPlace (.inr ⟨rfl, rfl⟩)
  have hZEN := (checkZEN_answer env impl v).inPlace (.inl rfl)
  have hFPEN := (checkFPENVector_answer env impl v).inPlace (.inl rfl)
  cases c with
  | porEL0Access => exact (checkE0POE_answer env impl v).inPlace (.inl rfl)
  | traceA64 => exact hTTA 0x18
  | traceA32MrcMcr => exact hTTA 0x05
  | traceA32MrrcMcrr => exact hTTA 0x0C
  | smeInsn => exact hSMEN.before hFPEN
  | sveInsn =>
    obtain hsve | hsve := smen_or_zen_applies env impl
    · rw [cpacrCheck_sveInsn_of_smen hsve]
      exact hSMEN.before hFPEN
    · rw [cpacrCheck_sveInsn_of_zen hsve]
      exact hZEN.before hFPEN
  | svcrAccess => exact hSMEN
  | smcrEL1Access => exact hSMEN
  | zcrEL1Access => exact hZEN
  | fpsimdAccess => exact (checkFPENSimd_answer env impl v).inPlace (.inl rfl)
  | mvfrWrite => exact nofun
  | other => exact nofun

/-- Settles O38. -/
theorem fieldTrapsStayInTheirPlace : Obligations.FieldTrapsStayInTheirPlace := by
  intro c env impl v target ec iss h
  obtain ⟨hact, rfl, hiss⟩ := cpacrCheck_inPlace c env impl v target ec iss h
  exact ⟨hact, trapTarget_of_routed, trapTarget_of_not_routed, hiss⟩

/-! ## The spec's function, on the bits of the register (R84) -/

/-- A two-bit value is 0b11 exactly when both bits are set. -/
theorem specEn2Traps_eq (v : Word) (lo : Nat) (el : EL) :
    specEn2Traps v lo el = en2Traps (v.extractLsb' lo 2) el := by
  have hboth (f : BitVec 2) : (f != 0b11) = !(f.getLsbD 1 && f.getLsbD 0) := by
    revert f
    decide
  rw [en2Traps, hboth]
  simp only [specEn2Traps, BitVec.getLsbD_extractLsb', Nat.one_lt_two, Nat.zero_lt_two, decide_true,
    Bool.true_and, Nat.add_zero]
  rfl

theorem specCpacrCheck_of_not_fieldsAct {c : TrapClass} {env : Env} (impl : Impl) (v : Word) (hact : ¬ env.fieldsAct)
    (hc : c ≠ .mvfrWrite) : specCpacrCheck c env impl v = .noTrap := by
  have hinactive : active env = false := Bool.eq_false_iff.mpr (mt (active_iff env).mp hact)
  exact (if_neg hc).trans (if_pos (congrArg Bool.not hinactive))

theorem trapIf_before (c : Bool) (env : Env) (ec : BitVec 6) (iss : Iss) (b : CheckResult) :
    (trapIf c env ec iss).before b = if c then .trap (trapTarget env) ec iss else b := by
  cases c <;> rfl

/-- FPEN's two ECs for Advanced SIMD, chosen by the target or written out per target (R78). -/
theorem trap_trapTarget_ite (env : Env) (ec₂ ec₁ : BitVec 6) (iss : Iss) :
    CheckResult.trap (trapTarget env) (if trapTarget env = .el2 then ec₂ else ec₁) iss =
      if trapTarget env = .el2 then .trap .el2 ec₂ iss else .trap .el1 ec₁ iss := by
  by_cases h : env.routesToEL2
  · simp [trapTarget_of_routed h]
  · simp [trapTarget_of_not_routed h]

/-! Where the fields act each field's check is the spec's condition on the field's bits. -/

theorem checkE0POE_of_active {env : Env} (h : active env = true) (impl : Impl) (v : Word) :
    checkE0POE env impl v = trapIf (decide (env.el = .el0) && !env.aarch32 && impl.featS1POE &&
      !v.getLsbD impl.fieldPos.e0poe) env 0x18 .unspecified := by
  rw [checkE0POE, h, Bool.true_and, e0poe]
  rfl

theorem checkTTA_of_active {env : Env} (h : active env = true) (impl : Impl) (v : Word) (ec : BitVec 6) :
    checkTTA env impl v ec = trapIf (impl.traceSysreg && v.getLsbD impl.fieldPos.tta) env ec .unspecified := by
  rw [checkTTA, h, Bool.true_and, tta]

theorem checkSMEN_of_active {env : Env} (h : active env = true) (impl : Impl) (v : Word) :
    checkSMEN env impl v =
      trapIf (impl.featSME && specEn2Traps v impl.fieldPos.smen env.el) env 0x1D (.value 0) := by
  rw [checkSMEN, h, Bool.true_and, specEn2Traps_eq, smen]

theorem checkZEN_of_active {env : Env} (h : active env = true) (impl : Impl) (v : Word) :
    checkZEN env impl v =
      trapIf (impl.featSVE && specEn2Traps v impl.fieldPos.zen env.el) env 0x19 .unspecified := by
  rw [checkZEN, h, Bool.true_and, specEn2Traps_eq, zen]

theorem checkFPENSimd_of_active {env : Env} (h : active env = true) (impl : Impl) (v : Word) :
    checkFPENSimd env impl v = trapIf (specEn2Traps v impl.fieldPos.fpen env.el) env
      (if trapTarget env = .el2 then 0x00 else 0x07) .unspecified := by
  rw [checkFPENSimd, h, Bool.true_and, specEn2Traps_eq, fpen]

theorem checkFPENVector_of_active {env : Env} (h : active env = true) (impl : Impl) (v : Word) :
    checkFPENVector env impl v = trapIf (specEn2Traps v impl.fieldPos.fpen env.el) env
      (if trapTarget env = .el2 then impl.fpenSveSmeEL2EC else 0x07) .unspecified := by
  rw [checkFPENVector, h, Bool.true_and, specEn2Traps_eq, fpen]

/-- Each arm of the spec's function is the check of the fields that the class names. -/
theorem cpacrCheck_eq_spec_of_active {c : TrapClass} {env : Env} (impl : Impl) (v : Word) (hactive : active env = true)
    (hc : c ≠ .mvfrWrite) : cpacrCheck c env impl v = specCpacrCheck c env impl v := by
  have hguard : ¬ (!active env) = true := by simp [hactive]
  refine Eq.trans ?_ ((if_neg hc).trans (if_neg hguard)).symm
  have hSMEN := checkSMEN_of_active hactive impl v
  have hZEN := checkZEN_of_active hactive impl v
  have hFPEN := checkFPENVector_of_active hactive impl v
  cases c with
  | porEL0Access => exact checkE0POE_of_active hactive impl v
  | traceA64 => exact checkTTA_of_active hactive impl v 0x18
  | traceA32MrcMcr => exact checkTTA_of_active hactive impl v 0x05
  | traceA32MrrcMcrr => exact checkTTA_of_active hactive impl v 0x0C
  | smeInsn =>
    rw [cpacrCheck, hSMEN, hFPEN, trapIf_before]
    rfl
  | sveInsn =>
    obtain hsmen | hzen := smen_or_zen_applies env impl
    · rw [cpacrCheck_sveInsn_of_smen hsmen, hSMEN, hFPEN, trapIf_before]
      exact (if_pos (by simpa using hsmen)).symm
    · have hcond : (impl.featSVE && specEn2Traps v impl.fieldPos.zen env.el) =
          specEn2Traps v impl.fieldPos.zen env.el := by rw [hzen.1, Bool.true_and]
      rw [cpacrCheck_sveInsn_of_zen hzen, hZEN, hcond, hFPEN, trapIf_before]
      exact (if_neg (by simp [hzen])).symm
  | svcrAccess => exact hSMEN
  | smcrEL1Access => exact hSMEN
  | zcrEL1Access => exact hZEN
  | fpsimdAccess =>
    rw [cpacrCheck, checkFPENSimd_of_active hactive, trapIf, trap_trapTarget_ite]
    rfl
  | mvfrWrite => exact absurd rfl hc
  | other => rfl

/-- Settles O39: where the fields do not act, both functions answer that nothing is trapped. -/
theorem checkRefinesTheSpecFunction : Obligations.CheckRefinesTheSpecFunction := by
  intro c env impl v
  by_cases hc : c = .mvfrWrite
  · subst hc
    rfl
  · by_cases hact : env.fieldsAct
    · exact cpacrCheck_eq_spec_of_active impl v ((active_iff env).mpr hact) hc
    · rw [cpacrCheck_of_not_fieldsAct impl v hact hc, specCpacrCheck_of_not_fieldsAct impl v hact hc]

/-! ## The checked instruction, as an event of the schedule -/

theorem checkEvent_of_trap {s : State} {c : TrapClass} {pick : Nat} {target : EL} {ec : BitVec 6} {iss : Iss}
    (h : cpacrCheck c s.env s.impl (s.checkValue pick) = .trap target ec iss) :
    checkEvent c pick s = .fault (.trap ⟨s.env.el, target, ec, iss, s.pc⟩) := by
  rw [checkEvent, h]
  rfl

theorem checkEvent_of_noTrap {s : State} {c : TrapClass} {pick : Nat}
    (h : cpacrCheck c s.env s.impl (s.checkValue pick) = .noTrap) : checkEvent c pick s = .next s := by
  rw [checkEvent, h]

theorem checkEvent_mvfrWrite (s : State) (pick : Nat) : checkEvent .mvfrWrite pick s = .refused .mvfrWrite :=
  rfl

/-- Settles O41: the turn taken off, the step is the event, and a check looks at no part of the schedule. -/
theorem checkedInstructionOutcome : Obligations.CheckedInstructionOutcome := by
  intro s c pick rest hs
  rw [step_outside hs]
  refine ⟨fun target ec iss h => checkEvent_of_trap h, fun h => checkEvent_of_noTrap h, ?_⟩
  rintro rfl
  exact checkEvent_mvfrWrite { s with schedule := rest } pick

end Sys2Proof.Machine
end

section
/-! Access to the register by its two names (41_register_access R100 to R115): the pseudocode of each accessor, arm by arm;
where it completes, what it leaves and what it does not touch. As above, each fact is said for the pair (name, direction). -/

namespace Sys2Proof.Machine

/-! ## Completion -/

/-- Settles O9. -/
theorem mrsCpacrEl1Completes : Obligations.MrsCpacrEl1Completes := fun t _ _ h =>
  exec_mrs_of_canAccess (m := .cpacrEL1) t h

/-- Settles O10. -/
theorem msrCpacrEl1Completes : Obligations.MsrCpacrEl1Completes := fun t _ _ h =>
  exec_msr_of_canAccess (m := .cpacrEL1) t h

/-- Settles O11. -/
theorem mrsCpacrEl12Completes : Obligations.MrsCpacrEl12Completes := fun t _ _ h =>
  exec_mrs_of_canAccess (m := .cpacrEL12) t h

/-- Settles O12. -/
theorem msrCpacrEl12Completes : Obligations.MsrCpacrEl12Completes := fun t _ _ h =>
  exec_msr_of_canAccess (m := .cpacrEL12) t h

/-! ## Frames -/

@[simp] theorem State.accessed_x (s : State) (m : Mnemonic) (w : Bool) : (s.accessed m w).x = s.x := rfl
@[simp] theorem State.accessed_schedule (s : State) (m : Mnemonic) (w : Bool) :
    (s.accessed m w).schedule = s.schedule := rfl

@[simp] theorem State.stored_x (s : State) (p : Storage) (v : Word) : (s.stored p v).x = s.x := by
  cases p <;> rfl
@[simp] theorem State.stored_schedule (s : State) (p : Storage) (v : Word) : (s.stored p v).schedule = s.schedule := by
  cases p <;> rfl
@[simp] theorem State.stored_bothNames (s : State) (p : Storage) (v : Word) :
    (s.stored p v).bothNames = s.bothNames := by
  cases p <;> rfl

/-- The pending set goes with the register. -/
theorem State.stored_stale_of_ne (s : State) {p : Storage} (v : Word) (h : p ≠ .cpacr) :
    (s.stored p v).stale = s.stale := by
  cases p with
  | cpacr => exact absurd rfl h
  | cptrEL2 => rfl
  | nvMem => rfl

/-- A write to one storage leaves what the others hold. -/
theorem State.held_stored_of_ne (s : State) {p q : Storage} (v : Word) (h : p ≠ q) :
    (s.stored p v).held q = s.held q := by
  cases p with
  | cpacr => cases q <;> trivial
  | cptrEL2 => cases q <;> trivial
  | nvMem => cases q <;> trivial

/-- Where the order of accesses is not watched, none is noted (log 31). -/
theorem State.accessed_note_of_not_watched {s : State} (h : ¬ s.watched) (m : Mnemonic) (w : Bool) :
    (s.accessed m w).lastMn = s.lastMn ∧ (s.accessed m w).lastWasWrite = s.lastWasWrite ∧
      (s.accessed m w).bothNames = s.bothNames :=
  ⟨if_neg h, if_neg h, if_neg h⟩

/-- Settles O19: whichever storage was reached, only `X[t]`, the pc and the note were written. -/
theorem mrsFrame : Obligations.MrsFrame := by
  intro t s s' h
  obtain ⟨m, p, -, rfl⟩ : ∃ m, ReadDone m t s s' := by
    rcases h with h | h
    · exact ⟨.cpacrEL1, exec_mrs_next (m := .cpacrEL1) h⟩
    · exact ⟨.cpacrEL12, exec_mrs_next (m := .cpacrEL12) h⟩
  exact ⟨fun k hk => getX_setX_other hk _ _, fun ht => setX_zero ht _ _, rfl, rfl, rfl, rfl, rfl, rfl, rfl,
    fun _ => rfl, fun hw => State.accessed_note_of_not_watched hw m false⟩

/-- Settles O20: the one storage written is one that the access reaches, so a storage it does not reach is another. -/
theorem msrFrame : Obligations.MsrFrame := by
  intro m t s s' h
  obtain ⟨p, hp, rfl⟩ : WriteDone m t s s' := by
    obtain ⟨rfl, h⟩ | ⟨rfl, h⟩ := h
    · exact exec_msr_next (m := .cpacrEL1) h
    · exact exec_msr_next (m := .cpacrEL12) h
  have ne_of_not_reaches {q : Storage} (hq : ¬ s.reaches m true q) : p ≠ q := fun e => hq (e ▸ hp)
  have held_of_not_reaches {q : Storage} (hq : ¬ s.reaches m true q) :=
    State.held_stored_of_ne (s.accessed m true) (s.readX t) (ne_of_not_reaches hq)
  refine ⟨fun k => ?_, fun hq => ⟨held_of_not_reaches hq, ?_⟩, held_of_not_reaches, held_of_not_reaches,
    State.stored_env .., State.stored_impl .., State.stored_schedule .., fun a => ?_, fun hw => ?_⟩
  · simp [State.readX]
  · simp [State.stored_stale_of_ne _ _ (ne_of_not_reaches hq)]
  · simp
  · simpa using State.accessed_note_of_not_watched hw m true

/-! ## A write, then a read by the same name -/

theorem accessRoute_congr {s s' : State} (himpl : s'.impl = s.impl) (henv : s'.env = s.env) (m : Mnemonic) (w : Bool) :
    accessRoute s' m w = accessRoute s m w := by
  simp only [accessRoute, State.hfg, himpl, henv]

/-- What an access reaches depends on the parameters and the inputs alone. -/
theorem State.reaches_congr {s s' : State} (himpl : s'.impl = s.impl) (henv : s'.env = s.env) {m : Mnemonic} {w : Bool}
    {p : Storage} : s'.reaches m w p ↔ s.reaches m w p := by
  rw [← accessRoute_iff, ← accessRoute_iff, accessRoute_congr himpl henv]

/-- A read is ordered after a write by the same name: that write is the last access noted (20_memory R48). -/
theorem WriteDone.not_unordered_read {m : Mnemonic} {t : Nat} {s s' : State} (h : WriteDone m t s s') :
    ¬ s'.unordered m false := by
  rintro ⟨hw', ⟨hother, -⟩ | ⟨-, hwrite⟩⟩
  · have hw : s.watched := State.watched_of_env_eq h.env_pc.1.symm hw'
    exact other_ne m (Option.some.inj (hother.symm.trans (h.notes_write hw).1))
  · cases hwrite

theorem write_then_read_back {m : Mnemonic} {s : State} (t : Nat) {d : Nat} (hd : d < 31)
    (hw : s.canAccess m true .cpacr) (hr : s.reaches m false .cpacr) :
    ∃ s₁ s₂, exec (m.msr t) s = .next s₁ ∧ exec (m.mrs d) s₁ = .next s₂ ∧
      s₂.readX d = storeFilter s.impl (s.readX t) := by
  have hwrite := exec_msr_of_canAccess t hw
  have hdone := exec_msr_next hwrite
  have hread := exec_mrs_of_canAccess d (m := m) (p := .cpacr)
    ⟨hdone.not_unordered_read, (State.reaches_congr hdone.impl_mem.1 hdone.env_pc.1).mpr hr, nofun⟩
  exact ⟨_, _, hwrite, hread, getX_setX_same hd _ _⟩

/-- Settles O22: by the name `CPACR_EL12`, a read reaches the register wherever a write does. -/
theorem writeThenReadBack : Obligations.WriteThenReadBack := fun t _ _ hd =>
  ⟨fun hw hr => write_then_read_back (m := .cpacrEL1) t hd hw hr,
    fun hw => write_then_read_back (m := .cpacrEL12) t hd hw hw.reaches⟩

/-! ## The end of the pseudocode, from the route -/

/-- What an access answers where its pseudocode ends: it raises, or it completes with the storage reached. -/
def Route.answer (s : State) (done : Storage → Result) : Route → Result
  | .undefined => s.undefinedHere
  | .trapTo target => s.accessTrapTo target
  | .cpacr => done .cpacr
  | .cptrEL2 => done .cptrEL2
  | .nvMem => done .nvMem

theorem eq_answer_of_route {s : State} {done : Storage → Result} {r : Route} {a : Result}
    (hundef : r = .undefined → a = s.undefinedHere) (htrap : ∀ target, r = .trapTo target → a = s.accessTrapTo target)
    (hdone : ∀ p : Storage, r = p.route → a = done p) : a = r.answer s done := by
  cases r with
  | undefined => exact hundef rfl
  | trapTo target => exact htrap target rfl
  | cpacr => exact hdone .cpacr rfl
  | cptrEL2 => exact hdone .cptrEL2 rfl
  | nvMem => exact hdone .nvMem rfl

theorem exec_mrs_eq_answer {m : Mnemonic} {s : State} (t : Nat) (ho : ¬ s.unordered m false)
    (hf : s.env.nvMemFault = false) :
    exec (m.mrs t) s = (accessRoute s m false).answer s
      (fun p => .next { s.accessed m false with x := setX t (s.held p) s.x }) := by
  have hexec : exec (m.mrs t) s = readRoute (accessRoute s m false) t (s.noteAccess m false) := by
    simp [exec_mrs, State.mnemonicHazard_false ho]
  apply eq_answer_of_route
  · exact fun hr => by rw [hexec, hr]; rfl
  · exact fun target hr => by rw [hexec, hr]; rfl
  · exact fun p hr => exec_mrs_of_canAccess t ⟨ho, (accessRoute_iff s m false p).mp hr, fun _ => hf⟩

theorem exec_msr_eq_answer {m : Mnemonic} {s : State} (t : Nat) (ho : ¬ s.unordered m true)
    (hf : s.env.nvMemFault = false) :
    exec (m.msr t) s = (accessRoute s m true).answer s
      (fun p => .next ((s.accessed m true).stored p (s.readX t))) := by
  have hexec : exec (m.msr t) s = writeRoute (accessRoute s m true) t (s.noteAccess m true) := by
    simp [exec_msr, State.mnemonicHazard_false ho]
  apply eq_answer_of_route
  · exact fun hr => by rw [hexec, hr]; rfl
  · exact fun target hr => by rw [hexec, hr]; rfl
  · exact fun p hr => exec_msr_of_canAccess t ⟨ho, (accessRoute_iff s m true p).mp hr, fun _ => hf⟩

/-! ## The conditions of the arms (41_register_access R105) -/

theorem sddUndefFirst_iff (impl : Impl) (env : Env) :
    sddUndefFirst impl env = true ↔ impl.haveEL3 = true ∧ env.sddUndefPrio = true ∧ env.tcpac3 = true := by
  simp [sddUndefFirst, and_assoc]

theorem fineGrainedTrap_iff (impl : Impl) (env : Env) (hfg : Bool) :
    fineGrainedTrap impl env hfg = true ↔
      env.el2Enabled = true ∧ impl.featFGT = true ∧ (impl.haveEL3 = false ∨ env.fgtEn = true) ∧ hfg = true := by
  simp [fineGrainedTrap, and_assoc]

/-- Past `NVx == '101'`, the pseudocode's `NVx IN 'xx1'` is the three other odd values (41_register_access R102). -/
theorem nvx_odd_iff : ∀ n : BitVec 3, n ≠ 0b101 → (n.getLsbD 0 = true ↔ n = 0b001 ∨ n = 0b011 ∨ n = 0b111) := by
  decide

theorem answer_el3Gate (s : State) (done : Storage → Result) (r : Route) :
    (el3Gate s.impl s.env r).answer s done =
      if s.impl.haveEL3 = true ∧ s.env.tcpac3 = true then
        (if s.env.sddUndef = true then s.undefinedHere else s.accessTrapTo .el3)
      else r.answer s done := by
  simp only [el3Gate, apply_ite (Route.answer s done), Bool.and_eq_true]
  rfl

/-! ## The pseudocode of the name `CPACR_EL1` -/

/-- R100 and R101 differ in the fine-grained trap's bit and in what completion means: the text they share. -/
def pseudocodeEL1 (s : State) (w : Bool) (done : Storage → Result) : Result :=
  match s.env.el with
  | .el0 => s.undefinedHere
  | .el1 =>
    if s.impl.haveEL3 = true ∧ s.env.sddUndefPrio = true ∧ s.env.tcpac3 = true then s.undefinedHere
    else if s.env.el2Enabled = true ∧ s.env.tcpac2 = true then s.accessTrapTo .el2
    else if s.env.el2Enabled = true ∧ s.impl.featFGT = true ∧
      (s.impl.haveEL3 = false ∨ s.env.fgtEn = true) ∧ s.hfg w = true then s.accessTrapTo .el2
    else if s.impl.haveEL3 = true ∧ s.env.tcpac3 = true then
      (if s.env.sddUndef = true then s.undefinedHere else s.accessTrapTo .el3)
    else if s.env.nvx = 0b111 then done .nvMem
    else done .cpacr
  | .el2 =>
    if s.impl.haveEL3 = true ∧ s.env.sddUndefPrio = true ∧ s.env.tcpac3 = true then s.undefinedHere
    else if s.impl.haveEL3 = true ∧ s.env.tcpac3 = true then
      (if s.env.sddUndef = true then s.undefinedHere else s.accessTrapTo .el3)
    else if s.env.hostEL2 = true then done .cptrEL2
    else done .cpacr
  | .el3 => done .cpacr

/-- Level by level: the route's conditions are the pseudocode's, in its order. -/
theorem answer_routeEL1 (s : State) (w : Bool) (done : Storage → Result) :
    (accessRoute s .cpacrEL1 w).answer s done = pseudocodeEL1 s w done := by
  simp only [accessRoute, routeCpacrEL1, pseudocodeEL1]
  cases s.env.el with
  | el0 => rfl
  | el1 =>
    simp only [apply_ite (Route.answer s done), answer_el3Gate, sddUndefFirst_iff, fineGrainedTrap_iff,
      Bool.and_eq_true, beq_iff_eq]
    rfl
  | el2 =>
    simp only [apply_ite (Route.answer s done), answer_el3Gate, sddUndefFirst_iff]
    rfl
  | el3 => rfl

/-- Settles O13. -/
theorem mrsCpacrEl1Pseudocode : Obligations.MrsCpacrEl1Pseudocode :=
  ⟨fun _ => (tuplesSelectTheForms _ _).mpr ⟨rfl, rfl, rfl, rfl, .inl ⟨rfl, rfl, rfl⟩⟩,
    fun t s ho hf => (exec_mrs_eq_answer (m := .cpacrEL1) t ho hf).trans (answer_routeEL1 s false _)⟩

/-- Settles O14. -/
theorem msrCpacrEl1Pseudocode : Obligations.MsrCpacrEl1Pseudocode :=
  ⟨fun _ => (tuplesSelectTheForms _ _).mpr ⟨rfl, rfl, rfl, rfl, .inr (.inl ⟨rfl, rfl, rfl⟩)⟩,
    fun t s ho hf => (exec_msr_eq_answer (m := .cpacrEL1) t ho hf).trans (answer_routeEL1 s true _)⟩

/-! ## The pseudocode of the name `CPACR_EL12` -/

/-- R102 and R103 differ in what completion means alone: the text they share. -/
def pseudocodeEL12 (s : State) (done : Storage → Result) : Result :=
  match s.env.el with
  | .el0 => s.undefinedHere
  | .el1 =>
    if s.env.nvx = 0b101 then done .nvMem
    else if s.env.nvx = 0b001 ∨ s.env.nvx = 0b011 ∨ s.env.nvx = 0b111 then s.accessTrapTo .el2
    else s.undefinedHere
  | .el2 =>
    if s.env.hostEL2 = true then
      if s.impl.haveEL3 = true ∧ s.env.sddUndefPrio = true ∧ s.env.tcpac3 = true then s.undefinedHere
      else if s.impl.haveEL3 = true ∧ s.env.tcpac3 = true then
        (if s.env.sddUndef = true then s.undefinedHere else s.accessTrapTo .el3)
      else done .cpacr
    else s.undefinedHere
  | .el3 => if s.env.hostEL2 = true then done .cpacr else s.undefinedHere

/-- As for the other name; at EL1, 101 being asked first leaves three odd values of NVx to the trap. -/
theorem answer_routeEL12 (s : State) (w : Bool) (done : Storage → Result) :
    (accessRoute s .cpacrEL12 w).answer s done = pseudocodeEL12 s done := by
  simp only [accessRoute, routeCpacrEL12, pseudocodeEL12]
  cases s.env.el with
  | el0 => rfl
  | el1 =>
    by_cases hn : s.env.nvx = 0b101
    · simp only [hn, beq_self_eq_true, if_true]
      rfl
    · simp only [beq_iff_eq, hn, if_false, apply_ite (Route.answer s done), nvx_odd_iff _ hn]
      rfl
  | el2 =>
    simp only [apply_ite (Route.answer s done), answer_el3Gate, sddUndefFirst_iff]
    rfl
  | el3 =>
    simp only [apply_ite (Route.answer s done)]
    rfl

/-- Settles O15. -/
theorem mrsCpacrEl12Pseudocode : Obligations.MrsCpacrEl12Pseudocode :=
  ⟨fun _ => (tuplesSelectTheForms _ _).mpr ⟨rfl, rfl, rfl, rfl, .inr (.inr (.inl ⟨rfl, rfl, rfl⟩))⟩,
    fun t s ho hf => (exec_mrs_eq_answer (m := .cpacrEL12) t ho hf).trans (answer_routeEL12 s false _)⟩

/-- Settles O16. -/
theorem msrCpacrEl12Pseudocode : Obligations.MsrCpacrEl12Pseudocode :=
  ⟨fun _ => (tuplesSelectTheForms _ _).mpr ⟨rfl, rfl, rfl, rfl, .inr (.inr (.inr ⟨rfl, rfl, rfl⟩))⟩,
    fun t s ho hf => (exec_msr_eq_answer (m := .cpacrEL12) t ho hf).trans (answer_routeEL12 s true _)⟩

/-! ## EL0 -/

theorem accessRoute_el0 {s : State} (h : s.env.el = .el0) (m : Mnemonic) (w : Bool) :
    accessRoute s m w = .undefined := by
  cases m with
  | cpacrEL1 => simp only [accessRoute, routeCpacrEL1, h]
  | cpacrEL12 => simp only [accessRoute, routeCpacrEL12, h]

/-- Settles O17: nothing is watched at EL0, and either name's route ends at once. -/
theorem everyAccessorIsUndefinedAtEL0 : Obligations.EveryAccessorIsUndefinedAtEL0 := by
  intro i s h
  have ordered (m : Mnemonic) (w : Bool) : ¬ s.unordered m w := State.not_unordered_of_el_ne (by simp [h]) m w
  obtain ⟨m, t, rfl⟩ | ⟨m, t, rfl⟩ := instr_cases i
  · rw [exec_mrs, State.mnemonicHazard_false (ordered m false), accessRoute_el0 h, ← h]
    rfl
  · rw [exec_msr, State.mnemonicHazard_false (ordered m true), accessRoute_el0 h, ← h]
    rfl

/-! ## `SDDUndefPrio` at EL2 -/

/-- Refutes O56 with the spec's vector A37: where `CPTR_EL3.TCPAC` traps and `SDDUndef` is false, `SDDUndefPrio` turns the
trap to EL3 into Undefined. -/
theorem not_debugPriorityNeverMattersAtEL2 : ¬ Obligations.DebugPriorityNeverMattersAtEL2 := by
  intro h
  have hsame := h Config.impl { Env.quiet with el := .el2, tcpac3 := true } true false rfl
  have hundef : routeCpacrEL1 Config.impl { Env.quiet with el := .el2, tcpac3 := true, sddUndefPrio := true } false =
      .undefined := by decide
  have htrap : routeCpacrEL1 Config.impl { Env.quiet with el := .el2, tcpac3 := true } false = .trapTo .el3 := by decide
  cases hundef.symm.trans (hsame.trans htrap)

end Sys2Proof.Machine
end

section
/-! Exceptions and what an accessor can answer (60_exceptions R121 to R133). -/

namespace Sys2Proof.Machine

/-! ## The levels an access is trapped from -/

/-- A System access trap goes from EL1 to EL2, or from EL1 or EL2 to an implemented EL3 (60_exceptions R123). -/
def State.mayTrapTo (s : State) (target : EL) : Prop :=
  (s.env.el = .el1 ∧ target = .el2) ∨
    ((s.env.el = .el1 ∨ s.env.el = .el2) ∧ s.impl.haveEL3 = true ∧ target = .el3)

/-- The arms of `CPTR_EL3.TCPAC` trap to EL3 alone, and only where it is implemented. -/
theorem el3Gate_eq_trapTo {impl : Impl} {env : Env} {r : Route} {target : EL}
    (h : el3Gate impl env r = .trapTo target) : (impl.haveEL3 = true ∧ target = .el3) ∨ r = .trapTo target := by
  unfold el3Gate at h
  split at h
  next hgate =>
    split at h
    · cases h
    · cases h
      exact .inl ⟨(Bool.and_eq_true_iff.mp hgate).1, rfl⟩
  next => exact .inr h

theorem routeCpacrEL1_eq_trapTo {s : State} {hfg : Bool} {target : EL}
    (h : routeCpacrEL1 s.impl s.env hfg = .trapTo target) : s.mayTrapTo target := by
  unfold routeCpacrEL1 at h
  cases hel : s.env.el with
  | el0 => simp [hel] at h
  | el1 =>
    simp only [hel] at h
    split at h
    · cases h
    split at h
    · cases h
      exact .inl ⟨hel, rfl⟩
    split at h
    · cases h
      exact .inl ⟨hel, rfl⟩
    obtain ⟨h3, htarget⟩ | hpast := el3Gate_eq_trapTo h
    · exact .inr ⟨.inl hel, h3, htarget⟩
    · split at hpast <;> cases hpast
  | el2 =>
    simp only [hel] at h
    split at h
    · cases h
    obtain ⟨h3, htarget⟩ | hpast := el3Gate_eq_trapTo h
    · exact .inr ⟨.inr hel, h3, htarget⟩
    · split at hpast <;> cases hpast
  | el3 => simp [hel] at h

theorem routeCpacrEL12_eq_trapTo {s : State} {target : EL} (h : routeCpacrEL12 s.impl s.env = .trapTo target) :
    s.mayTrapTo target := by
  unfold routeCpacrEL12 at h
  cases hel : s.env.el with
  | el0 => simp [hel] at h
  | el1 =>
    simp only [hel] at h
    split at h
    · cases h
    split at h
    · cases h
      exact .inl ⟨hel, rfl⟩
    · cases h
  | el2 =>
    simp only [hel] at h
    split at h
    · split at h
      · cases h
      obtain ⟨h3, htarget⟩ | hpast := el3Gate_eq_trapTo h
      · exact .inr ⟨.inr hel, h3, htarget⟩
      · cases hpast
    · cases h
  | el3 =>
    simp only [hel] at h
    split at h <;> cases h

theorem accessRoute_eq_trapTo {s : State} {m : Mnemonic} {w : Bool} {target : EL}
    (h : accessRoute s m w = .trapTo target) : s.mayTrapTo target := by
  cases m with
  | cpacrEL1 => exact routeCpacrEL1_eq_trapTo h
  | cpacrEL12 => exact routeCpacrEL12_eq_trapTo h

/-! ## Everything an accessor can answer -/

/-- What an access of either direction answers at the end of its route, the state a completion leaves aside. -/
def Route.answeredBy (s : State) (a : Result) : Route → Prop
  | .undefined => a = s.undefinedHere
  | .trapTo target => a = s.accessTrapTo target
  | .cpacr => ∃ s', a = .next s'
  | .cptrEL2 => ∃ s', a = .next s'
  | .nvMem => (s.env.nvMemFault = true ∧ a = .fault (.nvMemFault s.env.el s.pc)) ∨ ∃ s', a = .next s'

theorem readRoute_answeredBy (r : Route) (t : Nat) (s : State) : r.answeredBy s (readRoute r t s) := by
  cases r with
  | undefined => rfl
  | trapTo target => rfl
  | cpacr => exact ⟨_, rfl⟩
  | cptrEL2 => exact ⟨_, rfl⟩
  | nvMem => cases hf : s.env.nvMemFault <;> simp [Route.answeredBy, readRoute, raise, hf]

theorem writeRoute_answeredBy (r : Route) (t : Nat) (s : State) : r.answeredBy s (writeRoute r t s) := by
  cases r with
  | undefined => rfl
  | trapTo target => rfl
  | cpacr => exact ⟨_, rfl⟩
  | cptrEL2 => exact ⟨_, rfl⟩
  | nvMem => cases hf : s.env.nvMemFault <;> simp [Route.answeredBy, writeRoute, raise, hf]

/-- Noting an access changes neither the level nor the pc, which are all that a record holds (60_exceptions R127). -/
theorem Route.answeredBy_noteAccess {r : Route} {s : State} {m : Mnemonic} {w : Bool} {a : Result}
    (h : r.answeredBy (s.noteAccess m w) a) : r.answeredBy s a := by
  cases r <;> exact h

theorem exec_mrs_answeredBy {m : Mnemonic} {s : State} (t : Nat) (ho : ¬ s.unordered m false) :
    (accessRoute s m false).answeredBy s (exec (m.mrs t) s) := by
  rw [exec_mrs, State.mnemonicHazard_false ho]
  exact Route.answeredBy_noteAccess (readRoute_answeredBy _ t _)

theorem exec_msr_answeredBy {m : Mnemonic} {s : State} (t : Nat) (ho : ¬ s.unordered m true) :
    (accessRoute s m true).answeredBy s (exec (m.msr t) s) := by
  rw [exec_msr, State.mnemonicHazard_false ho]
  exact Route.answeredBy_noteAccess (writeRoute_answeredBy _ t _)

/-- The answers that an accessor may give, with their levels (60_exceptions R123, 20_memory R41, R48). -/
def State.mayAnswer (s : State) (a : Result) : Prop :=
  (∃ s', a = .next s') ∨ a = .fault (.undefined s.env.el s.pc) ∨
  (s.env.el = .el1 ∧ a = .fault (.systemAccessTrap ⟨.el1, .el2, 0x18, .unspecified, s.pc⟩)) ∨
  ((s.env.el = .el1 ∨ s.env.el = .el2) ∧ s.impl.haveEL3 = true ∧
    a = .fault (.systemAccessTrap ⟨s.env.el, .el3, 0x18, .unspecified, s.pc⟩)) ∨
  (s.env.el = .el1 ∧ s.env.nvMemFault = true ∧ a = .fault (.nvMemFault .el1 s.pc)) ∨
  (s.env.el = .el3 ∧ s.env.effE2H = true ∧ a = .refused .crossMnemonic)

theorem State.mayAnswer_undefined (s : State) : s.mayAnswer s.undefinedHere :=
  .inr (.inl rfl)

theorem State.mayAnswer_accessTrap {s : State} {target : EL} (h : s.mayTrapTo target) :
    s.mayAnswer (s.accessTrapTo target) := by
  obtain ⟨hel, rfl⟩ | ⟨hel, h3, rfl⟩ := h
  · exact .inr (.inr (.inl ⟨hel, by rw [State.accessTrapTo, hel]⟩))
  · exact .inr (.inr (.inr (.inl ⟨hel, h3, rfl⟩)))

theorem State.mayAnswer_nvMemFault {s : State} (hel : s.env.el = .el1) (hf : s.env.nvMemFault = true) :
    s.mayAnswer (.fault (.nvMemFault s.env.el s.pc)) :=
  .inr (.inr (.inr (.inr (.inl ⟨hel, hf, by rw [hel]⟩))))

theorem State.mayAnswer_crossMnemonic {s : State} (h : s.watched) : s.mayAnswer (.refused .crossMnemonic) := by
  obtain ⟨hel, he2h⟩ := h
  exact .inr (.inr (.inr (.inr (.inr ⟨hel, he2h, rfl⟩))))

/-- A route that traps does so from a level that may, and one that ends in `NVMem[0x100]` starts at EL1. -/
theorem State.mayAnswer_of_answeredBy {s : State} {m : Mnemonic} {w : Bool} {a : Result}
    (h : (accessRoute s m w).answeredBy s a) : s.mayAnswer a := by
  generalize hr : accessRoute s m w = r at h
  cases r with
  | undefined =>
    obtain rfl : a = s.undefinedHere := h
    exact s.mayAnswer_undefined
  | trapTo target =>
    obtain rfl : a = s.accessTrapTo target := h
    exact State.mayAnswer_accessTrap (accessRoute_eq_trapTo hr)
  | cpacr => exact .inl h
  | cptrEL2 => exact .inl h
  | nvMem =>
    obtain ⟨hf, rfl⟩ | hnext := h
    · exact State.mayAnswer_nvMemFault (State.el_of_reaches_nvMem ((accessRoute_iff s m w .nvMem).mp hr)) hf
    · exact .inl hnext

/-- Settles O18: an unordered access is refused, and an ordered one answers what the end of its route does. -/
theorem everyAnswerOfAnAccessor : Obligations.EveryAnswerOfAnAccessor := by
  intro i s
  change s.mayAnswer (exec i s)
  obtain ⟨m, t, rfl⟩ | ⟨m, t, rfl⟩ := instr_cases i
  · by_cases ho : s.unordered m false
    · rw [(exec_mrs_refused_iff m t s).mpr ho]
      exact State.mayAnswer_crossMnemonic ho.1
    · exact State.mayAnswer_of_answeredBy (exec_mrs_answeredBy t ho)
  · by_cases ho : s.unordered m true
    · rw [(exec_msr_refused_iff m t s).mpr ho]
      exact State.mayAnswer_crossMnemonic ho.1
    · exact State.mayAnswer_of_answeredBy (exec_msr_answeredBy t ho)

/-! ## No memory-mapped view -/

/-- A fetch looks at the inputs, the pc and instruction memory alone. -/
theorem fetch_congr {s s' : State} (henv : s'.env = s.env) (hpc : s'.pc = s.pc) (hmem : s'.mem = s.mem) :
    fetch s' = fetch s := by
  simp only [fetch, henv, hpc, hmem]

/-- Settles O58: the register is a storage apart from `NVMem[0x100]` and from instruction memory, so a write of one
leaves the others. -/
theorem registerHasNoMemoryView : Obligations.RegisterHasNoMemoryView := by
  refine ⟨fun s v => fetch_congr rfl rfl rfl, fun s v rest h => ?_, fun m t s h => ?_⟩
  · exact ⟨State.writeNvMem { s with schedule := rest } v, step_outside h, State.writeNvMem_nvMem ..,
      State.writeNvMem_cpacr .., State.writeNvMem_stale ..⟩
  · have hwrite := exec_msr_of_canAccess t h
    have hcell := State.held_stored_of_ne (s.accessed m true) (q := .nvMem) (s.readX t) (p := .cpacr) (by decide)
    obtain ⟨-, hmem⟩ := exec_impl_mem hwrite
    exact ⟨_, hwrite, hcell, fun a => by rw [hmem]⟩

end Sys2Proof.Machine
end

section
/-! The two values of CPACR_EL1 that software uses: all fields open, and zero (70_reset_and_hazards R154, R160, program
P5). -/

namespace Sys2Proof.Machine

/-! ## A value that allows everything -/

/-- A class is checked by these six checks alone, so where none of them traps nothing does (R84);
`MVFR_WRITE` is refused before any field (R81). -/
theorem cpacrCheck_of_fields_noTrap {c : TrapClass} {env : Env} {impl : Impl} {v : Word} (hc : c ≠ .mvfrWrite)
    (hE0POE : checkE0POE env impl v = .noTrap) (hTTA : ∀ ec, checkTTA env impl v ec = .noTrap)
    (hSMEN : checkSMEN env impl v = .noTrap) (hZEN : checkZEN env impl v = .noTrap)
    (hFPENSimd : checkFPENSimd env impl v = .noTrap) (hFPENVector : checkFPENVector env impl v = .noTrap) :
    cpacrCheck c env impl v = .noTrap := by
  cases c with
  | porEL0Access => exact hE0POE
  | traceA64 => exact hTTA 0x18
  | traceA32MrcMcr => exact hTTA 0x05
  | traceA32MrrcMcrr => exact hTTA 0x0C
  | smeInsn => exact (CheckResult.before_of_noTrap _ hSMEN).trans hFPENVector
  | sveInsn =>
    refine (CheckResult.before_of_noTrap _ ?_).trans hFPENVector
    rw [hSMEN, hZEN, ite_self]
  | svcrAccess => exact hSMEN
  | smcrEL1Access => exact hSMEN
  | zcrEL1Access => exact hZEN
  | fpsimdAccess => exact hFPENSimd
  | mvfrWrite => exact absurd rfl hc
  | other => rfl

/-- E0POE 1, TTA 0 and the two-bit fields `0b11`: no field asks for a trap (R154). -/
def AllowsEverything (pos : FieldPos) (v : Word) : Prop :=
  e0poe pos v = true ∧ tta pos v = false ∧ smen pos v = 0b11 ∧ fpen pos v = 0b11 ∧ zen pos v = 0b11

theorem not_fieldTraps_of_eq_three {f : BitVec 2} (h : f = 0b11) (el : EL) : ¬ fieldTraps f el := by
  simp [fieldTraps, h]

theorem AllowsEverything.cpacrCheck {c : TrapClass} {impl : Impl} {v : Word} (h : AllowsEverything impl.fieldPos v)
    (env : Env) (hc : c ≠ .mvfrWrite) : cpacrCheck c env impl v = .noTrap := by
  obtain ⟨he0poe, htta, hsmen, hfpen, hzen⟩ := h
  exact cpacrCheck_of_fields_noTrap hc
    ((checkE0POE_answer env impl v).noTrap_of_not fun hq => by simp [he0poe] at hq)
    (fun ec => (checkTTA_answer env impl v ec).noTrap_of_not fun hq => by simp [htta] at hq)
    ((checkSMEN_answer env impl v).noTrap_of_not fun hq => not_fieldTraps_of_eq_three hsmen _ hq.2)
    ((checkZEN_answer env impl v).noTrap_of_not fun hq => not_fieldTraps_of_eq_three hzen _ hq.2)
    ((checkFPENSimd_answer env impl v).noTrap_of_not (not_fieldTraps_of_eq_three hfpen _))
    ((checkFPENVector_answer env impl v).noTrap_of_not (not_fieldTraps_of_eq_three hfpen _))

/-- At the positions of 10_state R11. -/
theorem allowsEverything_config : AllowsEverything Config.fieldPos 0x23330000 := by
  unfold AllowsEverything
  decide

/-! ## Zero -/

theorem e0poe_zero (pos : FieldPos) : e0poe pos 0 = false := by simp [e0poe]
theorem tta_zero (pos : FieldPos) : tta pos 0 = false := by simp [tta]
theorem smen_zero (pos : FieldPos) : smen pos 0 = 0 := by simp [smen]
theorem fpen_zero (pos : FieldPos) : fpen pos 0 = 0 := by simp [fpen]
theorem zen_zero (pos : FieldPos) : zen pos 0 = 0 := by simp [zen]

/-- `0b00` traps at both levels that the fields act at. -/
theorem Env.fieldsAct.fieldTraps_of_eq_zero {env : Env} {f : BitVec 2} (h : env.fieldsAct) (hf : f = 0b00) :
    fieldTraps f env.el := by
  obtain ⟨hel | hel, -⟩ := h
  · exact .inl ⟨hel, .inl hf⟩
  · exact .inr ⟨hel, .inl hf⟩

/-- TTA is 0, and no other field checks trace accesses (R82). -/
theorem cpacrCheck_trace_zero {c : TrapClass} (env : Env) (impl : Impl)
    (hc : c = .traceA64 ∨ c = .traceA32MrcMcr ∨ c = .traceA32MrrcMcrr) : cpacrCheck c env impl 0 = .noTrap := by
  obtain ⟨hA64, hMrc, hMrrc⟩ := (ttaCheck env impl 0).2 (fun ⟨_, _, htta⟩ => by cases (tta_zero _).symm.trans htta)
  obtain rfl | rfl | rfl := hc
  · exact hA64
  · exact hMrc
  · exact hMrrc

/-- Settles O40: zero meets the trapping condition of each field but TTA, and of a value that allows everything none is
met. -/
theorem usefulValuesDoWhatTheyAreFor : Obligations.UsefulValuesDoWhatTheyAreFor := by
  refine ⟨fun c env impl v hc hv => ?_, fun env impl hact hsve hsme hs1poe => ?_,
    fun c env impl => cpacrCheck_trace_zero env impl⟩
  · have hallows : AllowsEverything impl.fieldPos v := by
      obtain hfields | ⟨hpos, rfl⟩ := hv
      · exact hfields
      · exact hpos ▸ allowsEverything_config
    exact hallows.cpacrCheck env hc
  · obtain ⟨hsimdEL2, hsimdEL1⟩ := (fpenSimdCheck env impl 0).1 ⟨hact, hact.fieldTraps_of_eq_zero (fpen_zero _)⟩
    obtain ⟨hsmeInsn, hsvcr, hsmcr, hstreaming⟩ := (smenCheck env impl 0).1
      ⟨hact, hsme, hact.fieldTraps_of_eq_zero (smen_zero _)⟩
    obtain ⟨hzcr, hnonStreaming⟩ := (zenCheck env impl 0).1
      ⟨hact, hsve, hact.fieldTraps_of_eq_zero (zen_zero _)⟩
    exact ⟨hsimdEL2, hsimdEL1, hnonStreaming, fun h => hstreaming (.inr h), hsmeInsn, hsvcr, hsmcr, hzcr,
      fun hel0 ha64 => (e0poeCheck env impl 0).1 ⟨hact, hel0, ha64, hs1poe, e0poe_zero _⟩⟩

end Sys2Proof.Machine
end

section
/-! The vectors I2, I4, I7, I8, I13 and I15 of 95_test_vectors section 2.9: the accepted bytes are those that the encoder
writes, and the refused words are under none of the four patterns of 30_encoding R57. -/

namespace Sys2Proof

/-- Bytes that are an instruction's encoding, with nothing after it, decode to it. -/
theorem decode_of_encode_eq {i : Instr} {bytes : List Byte} (hwf : i.WellFormed) (hbytes : encode i = bytes) :
    decode bytes = .ok (i, []) := by
  have hback := everyEncodingDecodesBack i [] hwf
  rwa [List.append_nil, hbytes] at hback

/-- A word that the mask of R57 brings to none of the four match values is refused (R62). -/
theorem decodeWord_ne_ok_of_mask {w : InsnWord}
    (hmask : ¬ (w &&& 0xFFFFFFE0 = 0xD5381040 ∨ w &&& 0xFFFFFFE0 = 0xD5181040 ∨
      w &&& 0xFFFFFFE0 = 0xD53D1040 ∨ w &&& 0xFFFFFFE0 = 0xD51D1040)) (i : Instr) : decodeWord w ≠ .ok i :=
  fun hdecode => hmask ((onlyFourPatternsDecode w).mp ⟨i, hdecode⟩)

/-- Settles O5: the round trip of O1 at the four encodings, and the patterns of O3 at the two refused words. -/
theorem wordsOfTheSpecDecode : Obligations.WordsOfTheSpecDecode := by
  refine ⟨?mrsEl1, ?msrEl1, ?mrsEl12, ?msrEl12, ?otherOp1, ?bit22⟩
  case mrsEl1 => exact decode_of_encode_eq (i := .mrsCpacrEl1 31) rfl (by decide)
  case msrEl1 => exact decode_of_encode_eq (i := .msrCpacrEl1 10) rfl (by decide)
  case mrsEl12 => exact decode_of_encode_eq (i := .mrsCpacrEl12 30) rfl (by decide)
  case msrEl12 => exact decode_of_encode_eq (i := .msrCpacrEl12 17) rfl (by decide)
  case otherOp1 => exact decodeWord_ne_ok_of_mask (by decide)
  case bit22 => exact decodeWord_ne_ok_of_mask (by decide)

end Sys2Proof
end
